-- ==== Sys2Proof/Word.lean ====
section
/-!
DEFINITION. The plainest types of JT-STEP: bytes, bits, the two axes, a pair of registers (one per axis), the
logical direction, and the bounds of an i32 (spec 00_scope.md R7, R10; 10_state.md R21).
-/

namespace Sys2Proof

/-- A byte, bits numbered 7 down to 0 (R10). -/
abbrev Byte := BitVec 8

/-- A bit (R10): `true` is 1, `false` is 0. -/
abbrev Bit := Bool

/-- The two motor channels (R7, R15). -/
inductive Axis
  | pan
  | tilt
deriving DecidableEq, Repr

/-- One register (or one constant) per axis (R21). -/
structure PerAxis (α : Type) where
  pan : α
  tilt : α
deriving DecidableEq, Repr

/-- The register of axis `a`. -/
def PerAxis.get {α : Type} (p : PerAxis α) : Axis → α
  | .pan => p.pan
  | .tilt => p.tilt

/-- Write `v` to the register of axis `a`; the other axis keeps its own. -/
def PerAxis.set {α : Type} (p : PerAxis α) (a : Axis) (v : α) : PerAxis α :=
  match a with
  | .pan => { p with pan := v }
  | .tilt => { p with tilt := v }

/-- The other axis. -/
def Axis.other : Axis → Axis
  | .pan => .tilt
  | .tilt => .pan

/-- A logical direction (R15): `plus` is +1, toward the positive limit; `minus` is -1. -/
inductive Dir
  | plus
  | minus
deriving DecidableEq, Repr

/-- The sign of a direction, as the `Int` the rules multiply and add with. -/
def Dir.sign : Dir → Int
  | .plus => 1
  | .minus => -1

/-- The least i32, `-2^31` (R10). -/
abbrev i32Min : Int := -2147483648

/-- The greatest i32, `2^31 - 1` (R10). -/
abbrev i32Max : Int := 2147483647

/-- `v` is an i32 (R10). The spec gives i32 no bit-level representation (20_memory.md R62), so an i32 is an
`Int` in this range. -/
abbrev InI32 (v : Int) : Prop := i32Min ≤ v ∧ v ≤ i32Max

end Sys2Proof
end

