-- ==== Sys2Proof/Config.lean ====
section
/-!
DEFINITION. The configuration of JT-STEP (spec 00_scope.md R7, R8, R9; 10_state.md R26 to R30), well-formed by
construction, the configuration of the hardware itself with every OPEN value an opaque constant, and the free
values: the opaque constants that stand for what ENV may choose at will (00_scope.md R11 `draw`, R44).
-/

namespace Sys2Proof

/-- `POLARITY[a]` (R28): the wiring-dependent sign flip between logical direction and DIR level. -/
inductive Polarity
  | normal
  | inverted
deriving DecidableEq, Repr, Inhabited

/-- `SEEK_TIE` (42_homing.md R213): which exit test of the homing seek wins at a tie. -/
inductive SeekTie
  | limitWins
  | timeoutWins
deriving DecidableEq, Repr, Inhabited

/-- `HOME_ALL_POLICY` (42_homing.md R225): what `HOME_ALL` does after one axis fails. -/
inductive HomeAllPolicy
  | attemptBothReportIfAll
  | attemptBothAlwaysReport
  | stopAtFirstFailure
deriving DecidableEq, Repr, Inhabited

/-- The well-formedness of one axis's bounds (R9): 0 and `HOME_REF` lie in the soft range, and the strict outer
bounds make `pos + 1`, `pos - 1` and `-pos` representable in i32. -/
abbrev SoftRangeOk (lo ref hi : Int) : Prop :=
  i32Min < lo ∧ lo ≤ 0 ∧ 0 ≤ hi ∧ hi < i32Max ∧ lo ≤ ref ∧ ref ≤ hi

/-- The configuration (R7). The proof fields are R9: an ill-formed configuration cannot be built
(93_implementation_defined.md U12). -/
structure Config where
  /-- `SOFT_MIN[a]` (R27). -/
  softMin : PerAxis Int
  /-- `SOFT_MAX[a]` (R27). -/
  softMax : PerAxis Int
  /-- `HOME_REF[a]` (R29). -/
  homeRef : PerAxis Int
  /-- `POLARITY[a]` (R28). -/
  polarity : PerAxis Polarity
  /-- `SEEK_CEILING[a]` (R30). -/
  seekCeiling : PerAxis Nat
  /-- `BACKOFF_STEPS` (R30), one value for both axes. -/
  backoffSteps : Nat
  /-- `T_DIR_SETTLE`, a duration in an unstated unit; no rule reads it (70_reset_and_hazards.md R340). -/
  tDirSettle : Nat
  /-- `T_STEP`; no rule reads it (R340). -/
  tStep : Nat
  /-- `T_SLOW`; no rule reads it (R340). -/
  tSlow : Nat
  /-- `RX_CAP`, the capacity of the mailbox buffer in bytes. -/
  rxCap : Nat
  /-- `TX_EOL`, the byte string that ends every transmitted line (40_dispatch.md R146). -/
  txEol : List Byte
  /-- `SEEK_TIE`. -/
  seekTie : SeekTie
  /-- `HOME_ALL_POLICY`. -/
  homeAllPolicy : HomeAllPolicy
  /-- R9 for the pan axis. -/
  panRange : SoftRangeOk softMin.pan homeRef.pan softMax.pan := by decide
  /-- R9 for the tilt axis. -/
  tiltRange : SoftRangeOk softMin.tilt homeRef.tilt softMax.tilt := by decide
  /-- R9: `RX_CAP >= 2`. -/
  capOk : 2 ≤ rxCap := by decide
  /-- R9: `T_SLOW > 0`. -/
  slowOk : 0 < tSlow := by decide
deriving DecidableEq, Repr

/-- The values of R8 and R29 that the spec does fix for this hardware: the pan soft range is `[0, 4200]`, pan homes
to 0 and tilt to its soft minimum. Unaudited by the source, so a claim that needs them names this premise. -/
abbrev Config.Fixed (c : Config) : Prop :=
  c.softMin.pan = 0 ∧ c.softMax.pan = 4200 ∧ c.homeRef.pan = 0 ∧ c.homeRef.tilt = c.softMin.tilt

/-! The OPEN parameters of the hardware (R7, 93_implementation_defined.md U11): opaque, so that nothing can be
proved of their values but well-formedness, which the form of `Config.hardware` gives (log 2). -/

/-- `-SOFT_MIN[Tilt]` of the hardware. -/
opaque Config.openTiltBelow : Fin 2147483648
/-- `SOFT_MAX[Tilt]` of the hardware. -/
opaque Config.openTiltAbove : Fin 2147483647
/-- `POLARITY[Pan]` of the hardware. -/
opaque Config.openPolarityPan : Polarity
/-- `POLARITY[Tilt]` of the hardware. -/
opaque Config.openPolarityTilt : Polarity
/-- `SEEK_CEILING[Pan]` of the hardware. -/
opaque Config.openCeilingPan : Nat
/-- `SEEK_CEILING[Tilt]` of the hardware. -/
opaque Config.openCeilingTilt : Nat
/-- `BACKOFF_STEPS` of the hardware. -/
opaque Config.openBackoff : Nat
/-- `T_DIR_SETTLE` of the hardware. -/
opaque Config.openDirSettle : Nat
/-- `T_STEP` of the hardware. -/
opaque Config.openStepTime : Nat
/-- `T_SLOW - 1` of the hardware. -/
opaque Config.openSlowLessOne : Nat
/-- `RX_CAP - 2` of the hardware. -/
opaque Config.openCapLessTwo : Nat
/-- `TX_EOL` of the hardware. -/
opaque Config.openEol : List Byte
/-- `SEEK_TIE` of the hardware. -/
opaque Config.openSeekTie : SeekTie
/-- `HOME_ALL_POLICY` of the hardware. -/
opaque Config.openHomeAllPolicy : HomeAllPolicy

/-- The configuration of this hardware: R8 and R29 where the spec fixes a value, an opaque constant elsewhere. -/
def Config.hardware : Config where
  softMin := ⟨0, -(Config.openTiltBelow.val : Int)⟩
  softMax := ⟨4200, (Config.openTiltAbove.val : Int)⟩
  homeRef := ⟨0, -(Config.openTiltBelow.val : Int)⟩
  polarity := ⟨Config.openPolarityPan, Config.openPolarityTilt⟩
  seekCeiling := ⟨Config.openCeilingPan, Config.openCeilingTilt⟩
  backoffSteps := Config.openBackoff
  tDirSettle := Config.openDirSettle
  tStep := Config.openStepTime
  tSlow := Config.openSlowLessOne + 1
  rxCap := Config.openCapLessTwo + 2
  txEol := Config.openEol
  seekTie := Config.openSeekTie
  homeAllPolicy := Config.openHomeAllPolicy
  panRange := by decide
  tiltRange := by
    have h1 := Config.openTiltBelow.isLt
    have h2 := Config.openTiltAbove.isLt
    simp only [SoftRangeOk, i32Min, i32Max]
    omega
  capOk := by omega
  slowOk := by omega

/-! The free values. Each is applied to a counter of State, so every use is a fresh value and nothing can be proved
of any (logs 4 to 7, 9, 11). -/

/-- The `n`-th bit that ENV answers a `PinRead` with (20_memory.md R75, U10). -/
opaque Config.freePin : Nat → Bit
/-- The `n`-th i32 draw (30_encoding.md R113, U1; 41_motion.md R188, U3): one of the `2^32` values, read by `toInt`. -/
opaque Config.freeI32 : Nat → BitVec 32
/-- The `n`-th loop-bound draw, `0 <= N <= 2^31` (41_motion.md R182, U2). -/
opaque Config.freeBound : Nat → Fin 2147483649
/-- The bytes ENV delivers at the `n`-th unscripted action boundary (20_memory.md R79, R88). -/
opaque Config.freeArrivals : Nat → List Byte
/-- The byte at index `i` of the mailbox buffer after reset (10_state.md R45, U4). -/
opaque Config.resetByte : Nat → Byte
/-- The level of `DIR[Pan]` after reset (10_state.md R45, U5). -/
opaque Config.resetDirPan : Bit
/-- The level of `DIR[Tilt]` after reset (10_state.md R45, U5). -/
opaque Config.resetDirTilt : Bit

end Sys2Proof
end

