-- ==== Sys2Proof/Syntax.lean ====
section
/-!
DEFINITION. The commands of JT-STEP, one constructor per row of the opcode map (spec 30_encoding.md R108, R110).
-/

namespace Sys2Proof

/-- A decoded Command (R108). An operand is an i32, held as an `Int` (`Instr.WellFormed` bounds it). -/
inductive Instr
  /-- `PAN_REL:<int>`: `PanRelative(n)` (41_motion.md R184). -/
  | panRel (n : Int)
  /-- `TILT_REL:<int>`: `TiltRelative(n)` (R185). -/
  | tiltRel (n : Int)
  /-- `PAN_ABS:<int>`: `PanAbsolute(t)` (R186). -/
  | panAbs (t : Int)
  /-- `TILT_ABS:<int>`: `TiltAbsolute(t)` (R187). -/
  | tiltAbs (t : Int)
  /-- `HOME_PAN`: `HomePan` (42_homing.md R223). -/
  | homePan
  /-- `HOME_TILT`: `HomeTilt` (R224). -/
  | homeTilt
  /-- `HOME_ALL`: `HomeAll` (R225). -/
  | homeAll
  /-- `CENTER`: `Center` (41_motion.md R189). -/
  | center
  /-- `GET_POS`: `GetPosition` (43_query.md R250). -/
  | getPos
  /-- `GET_STATUS`: `GetStatus` (R251). -/
  | getStatus
  /-- `PING`: `Ping` (R255). -/
  | ping
  /-- Any other line: `Unknown(text)` (R256, 30_encoding.md R115). -/
  | unknown (text : List Byte)
deriving DecidableEq, Repr

end Sys2Proof
end

