-- ==== Sys2Proof/Machine/Text.lean ====
section
/-!
DEFINITION. Byte strings: the byte classes of the Frame Receiver (spec 20_memory.md R70, R71), decimal text out
(40_dispatch.md R147) and in (30_encoding.md R112), and the match strings of the opcode map (R105, R108).
-/

namespace Sys2Proof.Machine

/-- The bytes of an ASCII text (00_scope.md R10). -/
def ascii (s : String) : List Byte := s.toList.map fun c => BitVec.ofNat 8 c.toNat

/-- CR or LF (R70). -/
def isTerminator (b : Byte) : Bool := b == 0x0D || b == 0x0A

/-- `is_printable(b)`: `0x20 <= b <= 0x7E` (R71). -/
def isPrintable (b : Byte) : Bool := decide (0x20 ≤ b.toNat) && decide (b.toNat ≤ 0x7E)

/-- `'0' <= b <= '9'` (R112). -/
def isDigit (b : Byte) : Bool := decide (0x30 ≤ b.toNat) && decide (b.toNat ≤ 0x39)

/-! Decimal text. -/

/-- The ASCII digit of `n < 10`. -/
def digitByte (n : Nat) : Byte := BitVec.ofNat 8 (0x30 + n)

/-- The shortest decimal text of a natural: `"0"` for 0, no leading zero otherwise (R147). -/
def decNat (n : Nat) : List Byte :=
  if n = 0 then [0x30] else (Nat.digits 10 n).reverse.map digitByte

/-- `dec(v)` (R147): `'-'` before the digits of a negative value, no `+`, no padding. -/
def dec (v : Int) : List Byte :=
  if v < 0 then 0x2D :: decNat v.natAbs else decNat v.natAbs

/-- Skip leading spaces, the first loop of `parse_int` (R112). -/
def skipSpaces (s : List Byte) : List Byte := s.dropWhile (· == 0x20)

/-- The digit loop of `parse_int`, from the value `m` read so far: it stops at the first byte that is no digit. -/
def readDigits (m : Nat) : List Byte → Nat
  | [] => m
  | b :: s => if isDigit b then readDigits (10 * m + (b.toNat - 0x30)) s else m

/-- The exact value `v` of `parse_int` before its range test (R112): at most one sign, then the digits. -/
def parseValue (s : List Byte) : Int :=
  match skipSpaces s with
  | [] => 0
  | b :: t =>
    if b = 0x2D then -(readDigits 0 t : Int)
    else if b = 0x2B then (readDigits 0 t : Int)
    else (readDigits 0 (b :: t) : Int)

/-- `parse_int(s)` (R112): the exact value when it is an i32, else the draw `free` (R113). -/
def parseInt (free : BitVec 32) (s : List Byte) : Int :=
  if InI32 (parseValue s) then parseValue s else free.toInt

/-! The match strings of the opcode map (R108), byte for byte as its hex column writes them; the literals of format
L without their NUL, which equality with the whole line stands for (R105). -/

/-- `PAN_REL:` -/
def prefixPanRel : List Byte := [0x50, 0x41, 0x4E, 0x5F, 0x52, 0x45, 0x4C, 0x3A]
/-- `TILT_REL:` -/
def prefixTiltRel : List Byte := [0x54, 0x49, 0x4C, 0x54, 0x5F, 0x52, 0x45, 0x4C, 0x3A]
/-- `PAN_ABS:` -/
def prefixPanAbs : List Byte := [0x50, 0x41, 0x4E, 0x5F, 0x41, 0x42, 0x53, 0x3A]
/-- `TILT_ABS:` -/
def prefixTiltAbs : List Byte := [0x54, 0x49, 0x4C, 0x54, 0x5F, 0x41, 0x42, 0x53, 0x3A]
/-- `HOME_PAN` -/
def literalHomePan : List Byte := [0x48, 0x4F, 0x4D, 0x45, 0x5F, 0x50, 0x41, 0x4E]
/-- `HOME_TILT` -/
def literalHomeTilt : List Byte := [0x48, 0x4F, 0x4D, 0x45, 0x5F, 0x54, 0x49, 0x4C, 0x54]
/-- `HOME_ALL` -/
def literalHomeAll : List Byte := [0x48, 0x4F, 0x4D, 0x45, 0x5F, 0x41, 0x4C, 0x4C]
/-- `CENTER` -/
def literalCenter : List Byte := [0x43, 0x45, 0x4E, 0x54, 0x45, 0x52]
/-- `GET_POS` -/
def literalGetPos : List Byte := [0x47, 0x45, 0x54, 0x5F, 0x50, 0x4F, 0x53]
/-- `GET_STATUS` -/
def literalGetStatus : List Byte := [0x47, 0x45, 0x54, 0x5F, 0x53, 0x54, 0x41, 0x54, 0x55, 0x53]
/-- `PING` -/
def literalPing : List Byte := [0x50, 0x49, 0x4E, 0x47]

/-- The line begins with the prefix (R105, format P). -/
def beginsWith (pre line : List Byte) : Bool := pre.isPrefixOf line

/-- Some format P row matches the line (R105). -/
def matchesPrefix (line : List Byte) : Bool :=
  beginsWith prefixPanRel line || beginsWith prefixTiltRel line ||
  beginsWith prefixPanAbs line || beginsWith prefixTiltAbs line

/-- Some format L row matches the line (R105). -/
def matchesLiteral (line : List Byte) : Bool :=
  line == literalHomePan || line == literalHomeTilt || line == literalHomeAll || line == literalCenter ||
  line == literalGetPos || line == literalGetStatus || line == literalPing

/-- The suffix of a format P line, the bytes after the colon (R103); `[]` for a line no prefix matches. -/
def suffixOf (line : List Byte) : List Byte :=
  if beginsWith prefixPanRel line then line.drop prefixPanRel.length
  else if beginsWith prefixTiltRel line then line.drop prefixTiltRel.length
  else if beginsWith prefixPanAbs line then line.drop prefixPanAbs.length
  else if beginsWith prefixTiltAbs line then line.drop prefixTiltAbs.length
  else []

/-- Decoding this line meets an out-of-range number, so takes a draw (R113). -/
def needsDraw (line : List Byte) : Bool := decide (¬ InI32 (parseValue (suffixOf line)))

end Sys2Proof.Machine
end

