-- ==== Sys2Proof/WellFormed.lean ====
section
/-!
DEFINITION. Which commands an encoding exists for: an i32 operand (spec 30_encoding.md R108, R111), and a text that
is a line (R100) no other row matches (R109, R115).
-/

namespace Sys2Proof

open Sys2Proof.Machine

/-- An operand is an i32 (R108: `arg` is an `i32`). -/
def operandOk (n : Int) : Bool := decide (InI32 n)

/-- A text is a line: not empty (R116) and printable (R100). -/
def textIsLine (text : List Byte) : Bool := !text.isEmpty && text.all isPrintable

/-- No row 1 to 11 matches the text (R109). -/
def textUnmatched (text : List Byte) : Bool := !matchesPrefix text && !matchesLiteral text

/-- The command is one that some line decodes to. -/
def Instr.wellFormed : Instr → Bool
  | .panRel n => operandOk n
  | .tiltRel n => operandOk n
  | .panAbs t => operandOk t
  | .tiltAbs t => operandOk t
  | .homePan => true
  | .homeTilt => true
  | .homeAll => true
  | .center => true
  | .getPos => true
  | .getStatus => true
  | .ping => true
  | .unknown text => textIsLine text && textUnmatched text

end Sys2Proof
end

