-- ==== Sys2Proof/Decode.lean ====
section
/-!
DEFINITION. The decoder, total on any bytes (spec 30_encoding.md R105, R110), and the encoder written from the same
opcode map (R108, R121).
-/

namespace Sys2Proof

open Sys2Proof.Machine

/-- Why a byte string is no command line. -/
inductive DecodeReject
  /-- The empty line: it produces no command (R116). -/
  | emptyLine
  /-- A byte outside `0x20 .. 0x7E`: no line holds one (R100). -/
  | unprintable
deriving DecidableEq, Repr

/-- The decoder as a total function of a line (R110); `free` is the draw an out-of-range number takes (R113). -/
def decodeLine (free : BitVec 32) (line : List Byte) : Instr :=
  if beginsWith prefixPanRel line then .panRel (parseInt free (suffixOf line))
  else if beginsWith prefixTiltRel line then .tiltRel (parseInt free (suffixOf line))
  else if beginsWith prefixPanAbs line then .panAbs (parseInt free (suffixOf line))
  else if beginsWith prefixTiltAbs line then .tiltAbs (parseInt free (suffixOf line))
  else if line = literalHomePan then .homePan
  else if line = literalHomeTilt then .homeTilt
  else if line = literalHomeAll then .homeAll
  else if line = literalCenter then .center
  else if line = literalGetPos then .getPos
  else if line = literalGetStatus then .getStatus
  else if line = literalPing then .ping
  else .unknown line

/-- Decode any byte string: what is not a line (R100, R116) is rejected by name, every line yields a command. -/
def decode (free : BitVec 32) (bytes : List Byte) : Except DecodeReject Instr :=
  if bytes = [] then .error .emptyLine
  else if bytes.all isPrintable then .ok (decodeLine free bytes)
  else .error .unprintable

/-- The line of a command: the text of its row, with the operand in the grammar of R121. -/
def encode : Instr → List Byte
  | .panRel n => prefixPanRel ++ dec n
  | .tiltRel n => prefixTiltRel ++ dec n
  | .panAbs t => prefixPanAbs ++ dec t
  | .tiltAbs t => prefixTiltAbs ++ dec t
  | .homePan => literalHomePan
  | .homeTilt => literalHomeTilt
  | .homeAll => literalHomeAll
  | .center => literalCenter
  | .getPos => literalGetPos
  | .getStatus => literalGetStatus
  | .ping => literalPing
  | .unknown text => text

/-- The `count` bytes of the number `w`, the least significant first: byte 0 of a line is bits 7..0. -/
def bytesOfNat : Nat → Nat → List Byte
  | 0, _ => []
  | count + 1, w => BitVec.ofNat 8 w :: bytesOfNat count (w / 256)

/-- The line in a NUL-terminated buffer: the bytes before the first NUL (R100). -/
def lineOf (bytes : List Byte) : List Byte := bytes.takeWhile (· != 0)

/-- The line that the low `nbits` bits of `w` are, every byte above them a NUL. -/
def tableLine (nbits w : Nat) : List Byte := lineOf (bytesOfNat (nbits / 8) w)

/-- The command the decoder reads from an instruction given as the opcode table numbers its bits; an out-of-range
number would take the free value of the first draw (log 26). -/
def decodeTableWord (nbits w : Nat) : Option Instr :=
  match decode (Config.freeI32 0) (tableLine nbits w) with
  | .ok i => some i
  | .error _ => none

end Sys2Proof
end

