-- ==== Sys2Proof/Machine/State.lean ====
section
/-!
DEFINITION. The state of JT-STEP (spec 10_state.md R20), plain data, and the state after reset (R45). Beside the
machine's own state it carries the parameters of the step relation (R44): the configuration, which nothing writes,
and ENV's inputs.
-/

namespace Sys2Proof.Machine

/-- MAIN's phase (R41). -/
inductive MPhase
  | boot
  | poll
  | exec
deriving DecidableEq, Repr

/-- The HomingPhase of an axis (R36). -/
inductive HPhase
  | idle
  | seekingLimit
  | backingOff
  | reapproachingSlow
  | homed
  | failed
deriving DecidableEq, Repr

/-- The four output pins (R31). -/
inductive OutPin
  | step (a : Axis)
  | dir (a : Axis)
deriving DecidableEq, Repr

/-- The four input pins, active-low limit switches (R31). -/
inductive InPin
  | neg (a : Axis)
  | pos (a : Axis)
deriving DecidableEq, Repr

/-- The named durations a `Delay` mark can carry (00_scope.md R11; 60_exceptions.md R291). -/
inductive Duration
  | tStep
  | tDirSettle
  | tSlow
deriving DecidableEq, Repr

/-- The events of the trace (00_scope.md R12). -/
inductive Event
  | rx (b : Byte)
  | tx (b : Byte)
  | pinSet (p : OutPin)
  | pinClear (p : OutPin)
  | pinRead (p : InPin) (v : Bit)
  | delay (t : Duration)
deriving DecidableEq, Repr

/-- The mailbox buffer, an array of `RX_CAP` bytes (20_memory.md R61): its bytes as (index, byte) pairs, indices strictly
rising. An index that is not listed does not exist. -/
abbrev Memory := List Host.Cell

/-- The loop registers of a running operation (R37). -/
structure LoopRegs where
  /-- `d`, the logical direction of the current motion. -/
  d : Dir
  /-- `N`, the loop bound of `move_axis`. -/
  bound : Nat
  /-- `done`, the steps `move_axis` has completed. -/
  done : Nat
  /-- `cnt`, the seek pulses `home` has issued. -/
  cnt : Nat
  /-- `k`, the back-off pulses `home` has issued. -/
  k : Nat
deriving DecidableEq, Repr

/-- The position inside a running command at which a step of the model can leave it (R40 (ii)): in the slow
re-approach, the one loop of the spec without a bound (42_homing.md R218). `panOk` is the `rp` of `HOME_ALL`. -/
inductive Suspended
  | homePan
  | homeTilt
  | homeAllPan
  | homeAllTilt (panOk : Bool)
deriving DecidableEq, Repr

/-- ENV's inputs (R44): scripts that are used up from their heads, and counters of the free values used after them. -/
structure Env where
  /-- The bytes delivered at each coming action boundary of MAIN (20_memory.md R79). -/
  arrivals : List (List Byte)
  /-- Whether ENV goes on delivering once `arrivals` is used up, then freely; if not, its input is finite (40_dispatch.md
  R152). -/
  endless : Bool
  /-- The answers to the coming pin reads (R75). -/
  pins : List Bit
  /-- The coming i32 draws (30_encoding.md R113, 41_motion.md R188). -/
  ints : List (BitVec 32)
  /-- The coming draws of a loop bound (41_motion.md R182). -/
  bounds : List (Fin 2147483649)
  /-- How many free arrivals have been used. -/
  boundary : Nat
  /-- How many free pin answers have been used. -/
  drawnPins : Nat
  /-- How many free i32 draws have been used. -/
  drawnInts : Nat
  /-- How many free loop-bound draws have been used. -/
  drawnBounds : Nat
deriving DecidableEq, Repr

/-- The state (R20), with the parameters of the step relation (R44) in `cfg` and `env`. -/
structure State where
  /-- The configuration; nothing writes it. -/
  cfg : Config
  /-- `pos[a]` (R22): an i32, kept in range by the soft-limit check. -/
  pos : PerAxis Int
  /-- `homed[a]` (R23). -/
  homed : PerAxis Bit
  /-- `buf` (R34). -/
  buf : Memory
  /-- `cur` (R34). -/
  cur : Nat
  /-- `ready` (R34). -/
  ready : Bit
  /-- `step_out[a]` (R33). -/
  stepOut : PerAxis Bit
  /-- `dir_out[a]` (R33). -/
  dirOut : PerAxis Bit
  /-- `mphase` (R41). -/
  mphase : MPhase
  /-- `hphase[a]` (R36). -/
  hphase : PerAxis HPhase
  /-- The loop registers (R37). -/
  loop : LoopRegs
  /-- Where the running command stands, when a step has left it unfinished (R40). -/
  susp : Option Suspended
  /-- The event trace, oldest first (R42). -/
  trace : List Event
  /-- ENV's inputs (R44). -/
  env : Env
deriving DecidableEq, Repr

/-- Why the machine stops. The spec has no fault (60_exceptions.md R270): both are the model's own, no state reached
from reset raises either, and both are safe (a stop where the hardware's behaviour is not given). -/
inductive Fault
  /-- `step`, before RX may write: the cursor is at or beyond `RX_CAP`, where no byte exists (20_memory.md R61).
  Safe. -/
  | cursorOutOfRange
  /-- `step`, when fetch meets no NUL up to the end of the buffer and would read on, where no byte exists (R61). Safe. -/
  | noSuchByte
deriving DecidableEq, Repr

/-- Why a pending line has no meaning. No command of the opcode table is refused. -/
inductive Refusal
  /-- `exec`, for an instruction without a meaning: no arm uses it. Safe. -/
  | notModelled (mnemonic : String)
  /-- `step`, when the pending line is empty: no command (30_encoding.md R116); unreachable (R35). Safe. -/
  | emptyLine
  /-- `step`, when the pending line holds a byte no line can hold (30_encoding.md R100); unreachable (R35). Safe. -/
  | unprintableLine
deriving DecidableEq, Repr

/-- The buffer after reset: `cap` bytes, each unspecified (R45), so each a free value of its index (log 11). -/
def Memory.blank (cap : Nat) : Memory := (List.range cap).map fun i => (i, Config.resetByte i)

/-- The state right after reset (R45, 70_reset_and_hazards.md R321). `buf` is unspecified: free bytes (log 11).
`dir_out` is unspecified: opaque bits (log 9). The loop registers have no reset value in the spec (log 10). ENV has
scripted nothing, so all its inputs are free values (log 3). -/
def State.reset : State where
  cfg := Config.hardware
  pos := ⟨0, 0⟩
  homed := ⟨false, false⟩
  buf := Memory.blank Config.hardware.rxCap
  cur := 0
  ready := false
  stepOut := ⟨false, false⟩
  dirOut := ⟨Config.resetDirPan, Config.resetDirTilt⟩
  mphase := .boot
  hphase := ⟨.idle, .idle⟩
  loop := { d := .plus, bound := 0, done := 0, cnt := 0, k := 0 }
  susp := none
  trace := []
  env :=
    { arrivals := [], endless := true, pins := [], ints := [], bounds := [], boundary := 0, drawnPins := 0,
      drawnInts := 0, drawnBounds := 0 }

end Sys2Proof.Machine
end

