-- ==== Sys2Proof/Machine/Ops.lean ====
section
/-!
DEFINITION. The named operations over registers, mailbox, ports and draws: the primitives of spec 00_scope.md R11;
the receive interrupt, the one exception JT-STEP takes (60_exceptions.md R280 to R284), whose handler is the Frame
Receiver (20_memory.md R68); and the interleaving of RX with MAIN's actions (R78, R79; 40_dispatch.md R154).
-/

namespace Sys2Proof.Machine

/-! Register writes, one per field of State. -/

/-- `pos[a] <- v`. -/
def State.setPos (s : State) (a : Axis) (v : Int) : State := { s with pos := s.pos.set a v }
/-- `homed[a] <- v`. -/
def State.setHomed (s : State) (a : Axis) (v : Bit) : State := { s with homed := s.homed.set a v }
/-- The mailbox buffer as a whole. -/
def State.setBuf (s : State) (m : Memory) : State := { s with buf := m }
/-- `cur <- n`. -/
def State.setCur (s : State) (n : Nat) : State := { s with cur := n }
/-- `ready <- v`. -/
def State.setReady (s : State) (v : Bit) : State := { s with ready := v }
/-- The latch of an output pin (R33). -/
def State.setLatch (s : State) (p : OutPin) (v : Bit) : State :=
  match p with
  | .step a => { s with stepOut := s.stepOut.set a v }
  | .dir a => { s with dirOut := s.dirOut.set a v }
/-- `mphase <- v`. -/
def State.setMphase (s : State) (v : MPhase) : State := { s with mphase := v }
/-- `hphase[a] <- v`. -/
def State.setHphase (s : State) (a : Axis) (v : HPhase) : State := { s with hphase := s.hphase.set a v }
/-- The loop registers as a whole (R37). -/
def State.setLoop (s : State) (r : LoopRegs) : State := { s with loop := r }
/-- Where the running command stands (R40). -/
def State.setSusp (s : State) (p : Option Suspended) : State := { s with susp := p }
/-- Append an event to the trace (R42). -/
def State.emit (s : State) (e : Event) : State := { s with trace := s.trace ++ [e] }
/-- ENV's inputs as a whole (R44). -/
def State.setEnv (s : State) (e : Env) : State := { s with env := e }

/-! The mailbox buffer (R61): a canonical list of its bytes. -/

/-- The byte at index `i`; `none` where the buffer has no byte. -/
def Memory.read : Memory → Nat → Option Byte
  | [], _ => none
  | (j, v) :: m, i => if i = j then some v else Memory.read m i

/-- Store `v` at index `i`, keeping the indices strictly rising. -/
def Memory.write : Memory → Nat → Byte → Memory
  | [], i, v => [(i, v)]
  | (j, w) :: m, i, v =>
    if i < j then (i, v) :: (j, w) :: m
    else if i = j then (i, v) :: m
    else (j, w) :: Memory.write m i v

/-- The canonical form: indices strictly rising. (An unlisted byte does not exist, so no entry can equal it.) -/
def Memory.wf : Memory → Bool
  | [] => true
  | [_] => true
  | (i, _) :: (j, w) :: m => decide (i < j) && Memory.wf ((j, w) :: m)

/-- The bytes are `buf[0 .. cap-1]`, all of them and no other (R61). -/
def Memory.whole (m : Memory) (cap : Nat) : Bool := decide (m.map Prod.fst = List.range cap)

/-- `MemRead(i, 1)` (R11). -/
def State.memRead (s : State) (i : Nat) : Option Byte := s.buf.read i

/-- `MemWrite(i, 1, v)` (R11), defined for `i < RX_CAP`; there is no byte to write beyond (R61). -/
def State.memWrite (s : State) (i : Nat) (v : Byte) : State :=
  if i < s.cfg.rxCap then s.setBuf (s.buf.write i v) else s

/-! Draws: the next scripted answer of ENV, or the next free value. -/

/-- The bit of one `PinRead` (R75). -/
def State.drawPin (s : State) : Bit × State :=
  match s.env.pins with
  | b :: rest => (b, s.setEnv { s.env with pins := rest })
  | [] => (Config.freePin s.env.drawnPins, s.setEnv { s.env with drawnPins := s.env.drawnPins + 1 })

/-- `draw i32` (30_encoding.md R113, 41_motion.md R188). -/
def State.drawI32 (s : State) : BitVec 32 × State :=
  match s.env.ints with
  | v :: rest => (v, s.setEnv { s.env with ints := rest })
  | [] => (Config.freeI32 s.env.drawnInts, s.setEnv { s.env with drawnInts := s.env.drawnInts + 1 })

/-- The draw of a loop bound in `[0, 2^31]` (41_motion.md R182). -/
def State.drawBound (s : State) : Nat × State :=
  match s.env.bounds with
  | n :: rest => (n.val, s.setEnv { s.env with bounds := rest })
  | [] => ((Config.freeBound s.env.drawnBounds).val, s.setEnv { s.env with drawnBounds := s.env.drawnBounds + 1 })

/-- The bytes ENV delivers at the next action boundary of MAIN (R79, R88): the script's; after it, free ones if ENV goes on
delivering, and none if its input is finite. -/
def State.drawArrivals (s : State) : List Byte × State :=
  match s.env.arrivals, s.env.endless with
  | bs :: rest, _ => (bs, s.setEnv { s.env with arrivals := rest })
  | [], true => (Config.freeArrivals s.env.boundary, s.setEnv { s.env with boundary := s.env.boundary + 1 })
  | [], false => ([], s)

/-! The receive interrupt. -/

/-- The Frame Receiver's body (20_memory.md R68 to R73), the interrupt's handler. -/
def State.frameReceiver (s : State) (b : Byte) : State :=
  if s.ready then s                                            -- R69
  else if isTerminator b then                                  -- R70
    if s.cur = 0 then s.memWrite s.cur 0x00
    else (((s.memWrite s.cur 0x00).setReady true).setCur 0)
  else if isPrintable b && decide (s.cur < s.cfg.rxCap - 1) then   -- R71
    (s.memWrite s.cur b).setCur (s.cur + 1)
  else s                                                       -- R72, R73

/-- Take the receive interrupt for one byte (R68; 60_exceptions.md R283): the `Rx` event, then the handler. Entry
saves nothing and changes no mode or mask. -/
def State.enterReceive (s : State) (b : Byte) : State := (s.emit (.rx b)).frameReceiver b

/-- Return from the receive interrupt (60_exceptions.md R284): nothing to restore, MAIN goes on from where it was. -/
def State.returnFromReceive (s : State) : State := s

/-- One whole step of RX: entry, handler, return, atomic to MAIN (20_memory.md R78). -/
def State.receive (s : State) (b : Byte) : State := (s.enterReceive b).returnFromReceive

/-- Deliver bytes one after another, in arrival order and never nested (R88). While `ready = 1` each only leaves its
`Rx` event (R69, R87); the first branch says so at once and `deliver_eq_foldl` shows it is no other case. -/
def State.deliver (s : State) (bs : List Byte) : State :=
  if s.ready then { s with trace := s.trace ++ bs.map Event.rx }
  else bs.foldl State.receive s

/-- An action boundary of MAIN: RX preempts and takes every byte ENV delivers here (R79, R154). -/
def State.preempt (s : State) : State := (s.drawArrivals.2).deliver s.drawArrivals.1

/-! The ports (R6, R60, R76, R77). Each call is one action of MAIN, so RX may fall before it. -/

/-- `PinSet(p)` (R11, R33). -/
def State.pinSet (s : State) (p : OutPin) : State := (s.preempt.emit (.pinSet p)).setLatch p true

/-- `PinClear(p)` (R11, R33). -/
def State.pinClear (s : State) (p : OutPin) : State := (s.preempt.emit (.pinClear p)).setLatch p false

/-- `PinWrite(p, v)` (R11). -/
def State.pinWrite (s : State) (p : OutPin) (v : Bit) : State := if v then s.pinSet p else s.pinClear p

/-- `PinRead(p)` (R11, R75): the bit ENV answers, and the state after. -/
def State.pinRead (s : State) (p : InPin) : Bit × State :=
  (s.preempt.drawPin.1, s.preempt.drawPin.2.emit (.pinRead p s.preempt.drawPin.1))

/-- `TxByte(b)` (R77): it always returns (log 23). -/
def State.txByte (s : State) (b : Byte) : State := s.preempt.emit (.tx b)

/-- `TxByte` of each byte of `bs` in order. -/
def State.txBytes (s : State) (bs : List Byte) : State := bs.foldl State.txByte s

/-- `TxLine(t)` (40_dispatch.md R146). -/
def State.txLine (s : State) (t : List Byte) : State := s.txBytes (t ++ s.cfg.txEol)

/-- `Delay(t)` (R11; 70_reset_and_hazards.md R340): it changes no state but the trace. -/
def State.delay (s : State) (t : Duration) : State := s.preempt.emit (.delay t)

/-- The errors that have a response line (60_exceptions.md R272: E1 and E4). -/
inductive ReportedError
  | protocolError (text : List Byte)
  | homingTimeout (a : Axis)
deriving DecidableEq, Repr

/-- The name of an axis in the response lines (40_dispatch.md R148). -/
def axisName : Axis → List Byte
  | .pan => ascii "PAN"
  | .tilt => ascii "TILT"

/-- The line of an error (R272, 40_dispatch.md R148): no space after the first colon of a protocol error, one in the
other (90_conflicts.md C7). -/
def errorLine : ReportedError → List Byte
  | .protocolError text => ascii "ERROR:" ++ text
  | .homingTimeout a => ascii "ERROR: " ++ axisName a ++ ascii " NEG LIMIT NOT FOUND"

/-- `report <Error>(info)` (60_exceptions.md R271): transmit the error's line, nothing else. -/
def State.report (s : State) (e : ReportedError) : State := s.txLine (errorLine e)

end Sys2Proof.Machine
end

