-- ==== Sys2Proof/Machine/Flags.lean ====
section
/-!
DEFINITION. The one-bit items: JT-STEP has no condition codes (spec 10_state.md R32). What stands in their place is
the sense of a limit input (00_scope.md R14), the digits that report a switch and a homed flag (43_query.md R251,
R254), and the exit tests of the homing seek (42_homing.md R212, R213).
-/

namespace Sys2Proof.Machine

/-- A limit input is asserted when it reads 0 (R14, active-low). -/
def asserted (v : Bit) : Bool := !v

/-- `st(v)` (R251, R254): `"1"` for an asserted switch. -/
def statusDigit (v : Bit) : List Byte := if asserted v then ascii "1" else ascii "0"

/-- `dec(homed[a])` (R251): a bit as a decimal digit. -/
def bitDigit (v : Bit) : List Byte := if v then ascii "1" else ascii "0"

/-- What the two exit tests of the seek decide. -/
inductive SeekVerdict
  | found
  | timeout
  | goOn
deriving DecidableEq, Repr

/-- The exit tests of the seek in the order `SEEK_TIE` gives (R212, R213, R221). -/
def seekTest (tie : SeekTie) (switch atCeiling : Bool) : SeekVerdict :=
  match tie with
  | .limitWins => if switch then .found else if atCeiling then .timeout else .goOn
  | .timeoutWins => if atCeiling then .timeout else if switch then .found else .goOn

end Sys2Proof.Machine
end

