-- ==== Sys2Proof/Machine/Operands.lean ====
section
/-!
DEFINITION. Operand forms and what is computed from an operand: the direction and loop bound of a signed count
(spec 41_motion.md R174, R175, R182), the DIR level (R171), the limit input in the direction of travel (R176), and
the delta of an absolute target (R186 to R188).
-/

namespace Sys2Proof.Machine

/-- The direction of a nonzero signed count (R174). -/
def dirOf (n : Int) : Dir := if 0 < n then .plus else .minus

/-- `dir_level(a, d)` (R171), from the polarity of the axis. -/
def dirLevel (p : Polarity) (d : Dir) : Bit :=
  match d, p with
  | .plus, .normal => true
  | .minus, .inverted => true
  | .plus, .inverted => false
  | .minus, .normal => false

/-- The limit input relevant to a direction of travel (R176). -/
def limitPin (a : Axis) : Dir → InPin
  | .plus => .pos a
  | .minus => .neg a

/-- The loop bound `N` of a count `n` (R175): `|n|`, but a draw for `n = -2^31` (R182). -/
def stepBound (n : Int) (s : State) : Nat × State :=
  if n = i32Min then s.drawBound else (n.natAbs, s)

/-- The tentative position `t` lies in the soft range of the axis (R177). -/
def inSoftRange (c : Config) (a : Axis) (t : Int) : Bool :=
  decide (c.softMin.get a ≤ t) && decide (t ≤ c.softMax.get a)

/-- The delta of an absolute move to `t` (R186, R187): `t - pos[a]`, but a draw when that is no i32 (R188). -/
def absoluteDelta (a : Axis) (t : Int) (s : State) : Int × State :=
  if InI32 (t - s.pos.get a) then (t - s.pos.get a, s) else (s.drawI32.1.toInt, s.drawI32.2)

end Sys2Proof.Machine
end

