-- ==== Sys2Proof/Machine/Motion.lean ====
section
/-!
DEFINITION. The Axis Motion Executor (spec 41_motion.md): the step pulse, SetDir, move_axis, and the meanings of
PAN_REL, TILT_REL, PAN_ABS, TILT_ABS and CENTER.
-/

namespace Sys2Proof.Machine

/-- `Pulse(a)` (R170). -/
def State.pulse (s : State) (a : Axis) : State :=
  (((s.pinSet (.step a)).delay .tStep).pinClear (.step a)).delay .tStep

/-- `SetDir(a, d)` (R171). -/
def State.setDir (s : State) (a : Axis) (d : Dir) : State :=
  (s.pinWrite (.dir a) (dirLevel (s.cfg.polarity.get a) d)).delay .tDirSettle

/-- Pulse and update, the end of one iteration (R178). -/
def completeStep (a : Axis) (t : Int) (s : State) : State :=
  let s := (s.pulse a).setPos a t
  s.setLoop { s.loop with done := s.loop.done + 1 }

/-- The loop of `move_axis` (R175 to R178, R180) with `rem = N - done` iterations left; the direction is the loop
register `d`. -/
def moveLoop (a : Axis) : Nat → State → State
  | 0, s => s
  | rem + 1, s =>
    let read := s.pinRead (limitPin a s.loop.d)
    let t := read.2.pos.get a + read.2.loop.d.sign
    if asserted read.1 then read.2                                   -- R176
    else if inSoftRange read.2.cfg a t then                          -- R177
      moveLoop a rem (completeStep a t read.2)                       -- R178
    else read.2

/-- What precedes the loop for a nonzero count (R174, R175): direction, SetDir, bound, `done <- 0`. -/
def moveStart (a : Axis) (n : Int) (s : State) : State :=
  let s := (s.setLoop { s.loop with d := dirOf n }).setDir a (dirOf n)
  let bound := stepBound n s
  bound.2.setLoop { bound.2.loop with bound := bound.1, done := 0 }

/-- `move_axis(a, n)` (R180): the signed count of steps completed (R179), and the state after. -/
def moveAxis (a : Axis) (n : Int) (s : State) : Int × State :=
  if n = 0 then (0, s)                                               -- R173
  else
    let start := moveStart a n s
    let fin := moveLoop a start.loop.bound start
    (fin.loop.d.sign * (fin.loop.done : Int), fin)

/-- The response line of a move (40_dispatch.md R148): `OK PAN:<v>` or `OK TILT:<v>`. -/
def okLine (a : Axis) (v : Int) : List Byte := ascii "OK " ++ axisName a ++ ascii ":" ++ dec v

/-- A relative move (R184, R185): the response carries the steps taken. -/
def relativeMove (a : Axis) (n : Int) (s : State) : State :=
  let move := moveAxis a n s
  move.2.txLine (okLine a move.1)

/-- An absolute move (R186, R187): the response carries the new position. -/
def absoluteMove (a : Axis) (t : Int) (s : State) : State :=
  let delta := absoluteDelta a t s
  let after := (moveAxis a delta.1 delta.2).2
  after.txLine (okLine a (after.pos.get a))

/-- `PAN_REL:<int>` (R184). -/
def execPanRel (n : Int) (s : State) : Host.Outcome State Fault Refusal := .next (relativeMove .pan n s)

/-- `TILT_REL:<int>` (R185). -/
def execTiltRel (n : Int) (s : State) : Host.Outcome State Fault Refusal := .next (relativeMove .tilt n s)

/-- `PAN_ABS:<int>` (R186). -/
def execPanAbs (t : Int) (s : State) : Host.Outcome State Fault Refusal := .next (absoluteMove .pan t s)

/-- `TILT_ABS:<int>` (R187). -/
def execTiltAbs (t : Int) (s : State) : Host.Outcome State Fault Refusal := .next (absoluteMove .tilt t s)

/-- `CENTER` (R189): pan, then tilt, each by minus its position; one response whatever the moves did. -/
def execCenter (s : State) : Host.Outcome State Fault Refusal :=
  let afterPan := (moveAxis .pan (-s.pos.get .pan) s).2
  let afterTilt := (moveAxis .tilt (-afterPan.pos.get .tilt) afterPan).2
  .next (afterTilt.txLine (ascii "CENTERED"))

end Sys2Proof.Machine
end

