-- ==== Sys2Proof/Machine/Homing.lean ====
section
/-!
DEFINITION. The Homing Sequencer (spec 42_homing.md R210 to R229) and the meanings of HOME_PAN, HOME_TILT and
HOME_ALL. The slow re-approach has no bound (R218): a step of the model runs it for as long as ENV's script answers
(for one read when the script is empty), then leaves the command suspended, and the next steps go on with it (log 14).
-/

namespace Sys2Proof.Machine

/-- How a call of `home(a)` stands at the end of a model step: returned `Ok`, returned `Err(LimitNotFound)`, or still
in the slow re-approach (R229 (3)). -/
inductive HomeStatus
  | ok
  | err
  | running
deriving DecidableEq, Repr

/-- One read of the seek and its two exit tests (R212, R213). -/
def seekRead (a : Axis) (s : State) : SeekVerdict × State :=
  let read := s.pinRead (.neg a)
  (seekTest read.2.cfg.seekTie (asserted read.1) (decide (read.2.cfg.seekCeiling.get a ≤ read.2.loop.cnt)), read.2)

/-- One seek pulse (R212). -/
def seekPulse (a : Axis) (s : State) : State :=
  let s := s.pulse a
  s.setLoop { s.loop with cnt := s.loop.cnt + 1 }

/-- Phase 1, the seek loop (R212, R213, R221): `true` when the limit is found. The first argument is the number of
pulses still allowed, `SEEK_CEILING[a] - cnt`; at 0 the exit tests never say "go on". -/
def seekLoop (a : Axis) : Nat → State → Bool × State
  | 0, s => ((seekRead a s).1 == .found, (seekRead a s).2)
  | rem + 1, s =>
    match (seekRead a s).1 with
    | .found => (true, (seekRead a s).2)
    | .timeout => (false, (seekRead a s).2)
    | .goOn => seekLoop a rem (seekPulse a (seekRead a s).2)

/-- Phase 1 with its entry (R211, R212). -/
def seekPhase (a : Axis) (s : State) : Bool × State :=
  let s := ((s.setHomed a false).setHphase a .seekingLimit).setDir a .minus
  let s := s.setLoop { s.loop with d := .minus, cnt := 0 }
  seekLoop a (s.cfg.seekCeiling.get a) s

/-- The pulses of phase 2 (R215, R216), `rem` of them left. -/
def backOffLoop (a : Axis) : Nat → State → State
  | 0, s => s
  | rem + 1, s =>
    let s := s.setLoop { s.loop with k := s.loop.k + 1 }
    backOffLoop a rem (s.pulse a)

/-- Phase 2 (R215): blind, `BACKOFF_STEPS` pulses in the positive direction. -/
def backOffPhase (a : Axis) (s : State) : State :=
  let s := (s.setHphase a .backingOff).setDir a .plus
  let s := s.setLoop { s.loop with d := .plus, k := 0 }
  backOffLoop a s.cfg.backoffSteps s

/-- Entry of phase 3 (R217). -/
def reapproachStart (a : Axis) (s : State) : State :=
  let s := (s.setHphase a .reapproachingSlow).setDir a .minus
  s.setLoop { s.loop with d := .minus }

/-- `fuel` iterations of the loop of phase 3 (R217): `true` when the switch has re-asserted. -/
def reapproachLoop (a : Axis) : Nat → State → Bool × State
  | 0, s => (false, s)
  | fuel + 1, s =>
    let read := s.pinRead (.neg a)
    if asserted read.1 then (true, read.2)
    else reapproachLoop a fuel ((read.2.pulse a).delay .tSlow)

/-- Phase 4 and the return `Ok` (R219, R222). -/
def homeFinish (a : Axis) (s : State) : State :=
  let s := s.setHphase a .homed
  let s := (s.setPos a (s.cfg.homeRef.get a)).setHomed a true
  s.setHphase a .idle

/-- The timeout and the return `Err` (R214, R222). -/
def homeFail (a : Axis) (s : State) : State := (s.setHphase a .failed).setHphase a .idle

/-- Phase 3 for as long as the script answers, for one read when it is empty (log 14), then phase 4 if the switch
re-asserted. -/
def reapproach (a : Axis) (s : State) : HomeStatus × State :=
  let loop := reapproachLoop a (max 1 s.env.pins.length) s
  if loop.1 then (.ok, homeFinish a loop.2) else (.running, loop.2)

/-- `home(a)` (R221). -/
def home (a : Axis) (s : State) : HomeStatus × State :=
  let seek := seekPhase a s
  if seek.1 then reapproach a (reapproachStart a (backOffPhase a seek.2))
  else (.err, homeFail a seek.2)

/-- `HOMING PAN...` or `HOMING TILT...` (40_dispatch.md R148). -/
def homingLine (a : Axis) : List Byte := ascii "HOMING " ++ axisName a ++ ascii "..."

/-- `PAN HOMED` or `TILT HOMED` (40_dispatch.md R148). -/
def homedLine (a : Axis) : List Byte := axisName a ++ ascii " HOMED"

/-- The line that reports a returned `home(a)` (R223, R224). -/
def reportHome (a : Axis) (ok : Bool) (s : State) : State :=
  if ok then s.txLine (homedLine a) else s.report (.homingTimeout a)

/-- The end of `HOME_ALL` once both axes have been tried (R225). -/
def homeAllEnd (panOk tiltOk : Bool) (s : State) : State :=
  let s := reportHome .tilt tiltOk s
  if s.cfg.homeAllPolicy = .attemptBothAlwaysReport ∨ (panOk && tiltOk) then s.txLine (ascii "ALL HOMED") else s

/-- Go on after `home` with `next` when it has returned; leave the command suspended at `p` when it has not. -/
def afterHome (p : Suspended) (next : Bool → State → State) (r : HomeStatus × State) : State :=
  match r.1 with
  | .ok => next true r.2
  | .err => next false r.2
  | .running => r.2.setSusp (some p)

/-- The tilt half of `HOME_ALL` (R225). -/
def homeAllTilt (panOk : Bool) (s : State) : State :=
  afterHome (.homeAllTilt panOk) (homeAllEnd panOk) (home .tilt (s.txLine (homingLine .tilt)))

/-- `HOME_ALL` once the pan axis has been tried (R225). -/
def homeAllAfterPan (panOk : Bool) (s : State) : State :=
  let s := reportHome .pan panOk s
  if panOk = false ∧ s.cfg.homeAllPolicy = .stopAtFirstFailure then s else homeAllTilt panOk s

/-- `HOME_PAN` (R223). -/
def execHomePan (s : State) : Host.Outcome State Fault Refusal :=
  .next (afterHome .homePan (reportHome .pan) (home .pan (s.txLine (homingLine .pan))))

/-- `HOME_TILT` (R224). -/
def execHomeTilt (s : State) : Host.Outcome State Fault Refusal :=
  .next (afterHome .homeTilt (reportHome .tilt) (home .tilt (s.txLine (homingLine .tilt))))

/-- `HOME_ALL` (R225). -/
def execHomeAll (s : State) : Host.Outcome State Fault Refusal :=
  .next (afterHome .homeAllPan homeAllAfterPan (home .pan (s.txLine (homingLine .pan))))

/-- The axis whose re-approach a suspended command is in. -/
def Suspended.axis : Suspended → Axis
  | .homePan => .pan
  | .homeTilt => .tilt
  | .homeAllPan => .pan
  | .homeAllTilt _ => .tilt

/-- What a suspended command does once its `home` has returned. -/
def Suspended.rest : Suspended → Bool → State → State
  | .homePan => reportHome .pan
  | .homeTilt => reportHome .tilt
  | .homeAllPan => homeAllAfterPan
  | .homeAllTilt panOk => homeAllEnd panOk

/-- Go on with a suspended command (R217, R218): more iterations of its re-approach. -/
def continueCommand (p : Suspended) (s : State) : State :=
  afterHome p p.rest (reapproach p.axis (s.setSusp none))

end Sys2Proof.Machine
end

