-- ==== Sys2Proof/Machine/Query.lean ====
section
/-!
DEFINITION. The queries and the unknown command (spec 43_query.md): the meanings of GET_POS, GET_STATUS, PING and
UNKNOWN.
-/

namespace Sys2Proof.Machine

/-- The response of `GET_POS` (R250). -/
def posLine (pan tilt : Int) : List Byte := ascii "POS PAN:" ++ dec pan ++ ascii " TILT:" ++ dec tilt

/-- The response of `GET_STATUS` (R251), from the four pin levels and the two homed flags. -/
def statusLine (pn pp tn tp ph th : Bit) : List Byte :=
  ascii "STATUS PN:" ++ statusDigit pn ++ ascii " PP:" ++ statusDigit pp ++ ascii " TN:" ++ statusDigit tn ++
  ascii " TP:" ++ statusDigit tp ++ ascii " PH:" ++ bitDigit ph ++ ascii " TH:" ++ bitDigit th

/-- `GET_POS` (R250). -/
def execGetPos (s : State) : Host.Outcome State Fault Refusal :=
  .next (s.txLine (posLine (s.pos.get .pan) (s.pos.get .tilt)))

/-- `GET_STATUS` (R251, R252): four reads in field order, then the line. -/
def execGetStatus (s : State) : Host.Outcome State Fault Refusal :=
  let pn := s.pinRead (.neg .pan)
  let pp := pn.2.pinRead (.pos .pan)
  let tn := pp.2.pinRead (.neg .tilt)
  let tp := tn.2.pinRead (.pos .tilt)
  .next (tp.2.txLine (statusLine pn.1 pp.1 tn.1 tp.1 (tp.2.homed.get .pan) (tp.2.homed.get .tilt)))

/-- `PING` (R255). -/
def execPing (s : State) : Host.Outcome State Fault Refusal := .next (s.txLine (ascii "PONG"))

/-- Any other line (R256): the echoed protocol error. -/
def execUnknown (text : List Byte) (s : State) : Host.Outcome State Fault Refusal :=
  .next (s.report (.protocolError text))

end Sys2Proof.Machine
end

