-- ==== Sys2Proof/Machine/Dispatch.lean ====
section
/-!
DEFINITION. `execute(cmd)` (spec 40_dispatch.md R144): one arm per command of the opcode map.
-/

namespace Sys2Proof.Machine

open Sys2Proof

def exec (i : Instr) (s : State) : Host.Outcome State Fault Refusal :=
  match i with
  | .panRel n => Sys2Proof.Machine.execPanRel n s
  | .tiltRel n => Sys2Proof.Machine.execTiltRel n s
  | .panAbs t => Sys2Proof.Machine.execPanAbs t s
  | .tiltAbs t => Sys2Proof.Machine.execTiltAbs t s
  | .homePan => Sys2Proof.Machine.execHomePan s
  | .homeTilt => Sys2Proof.Machine.execHomeTilt s
  | .homeAll => Sys2Proof.Machine.execHomeAll s
  | .center => Sys2Proof.Machine.execCenter s
  | .getPos => Sys2Proof.Machine.execGetPos s
  | .getStatus => Sys2Proof.Machine.execGetStatus s
  | .ping => Sys2Proof.Machine.execPing s
  | .unknown text => Sys2Proof.Machine.execUnknown text s

end Sys2Proof.Machine
end

