-- ==== Sys2Proof/Machine/Cycle.lean ====
section
/-!
DEFINITION. The Dispatch Loop (spec 40_dispatch.md R140 to R145) and boot (70_reset_and_hazards.md R322): fetch,
decode, execute, respond, release.
-/

namespace Sys2Proof.Machine

/-- The bytes from index `i` up to the first NUL; `none` when the buffer ends before one. `fuel` is more than the number
of bytes in the buffer, so it never runs out first. -/
def fetchFrom (m : Memory) : Nat → Nat → Option (List Byte)
  | 0, _ => none
  | fuel + 1, i =>
    match m.read i with
    | none => none
    | some b => if b = 0x00 then some [] else (fetchFrom m fuel (i + 1)).map (b :: ·)

/-- `fetch()` (R142): `buf[0] .. buf[n-1]`, `n` the least index that holds a NUL. -/
def State.fetch (s : State) : Option (List Byte) := fetchFrom s.buf (s.buf.length + 1) 0

/-- The draw a line with an out-of-range number takes (30_encoding.md R113); no other line takes one. -/
def lineDraw (line : List Byte) (s : State) : BitVec 32 × State :=
  if needsDraw line then s.drawI32 else (0, s)

/-- Release (R145): `ready <- 0`, then back to the poll. An RX step may fall before it (70 R330). -/
def State.release (s : State) : State := (s.preempt.setReady false).setMphase .poll

/-- The end of a model step in a command: release the mailbox unless the command is suspended (log 14). -/
def State.endCommand (s : State) : State := if s.susp.isNone then s.release else s

/-- Start a command: `mphase <- Exec` (R140); no command is under way. -/
def State.beginCommand (s : State) : State := (s.setMphase .exec).setSusp none

/-- Decode, execute, respond, release (R140, R143 to R145) for a fetched line. -/
def runLine (line : List Byte) (s : State) : Host.Outcome State Fault Refusal :=
  match decode (lineDraw line s).1 line with
  | .error .emptyLine => .refused .emptyLine
  | .error .unprintable => .refused .unprintableLine
  | .ok i =>
    match exec i (lineDraw line s).2.beginCommand with
    | .next t => .next t.endCommand
    | .fault r => .fault r
    | .refused r => .refused r

/-- One read of `ready` in the poll (R141), and the whole command when it reads 1. -/
def pollStep (s : State) : Host.Outcome State Fault Refusal :=
  if s.preempt.ready then
    match s.preempt.fetch with
    | none => .fault .noSuchByte
    | some line => runLine line s.preempt
  else .next s.preempt

/-- Boot (R322): `READY`, then the first poll. -/
def bootStep (s : State) : State := (s.txLine (ascii "READY")).setMphase .poll

/-- A step inside `Exec`: go on with the suspended command; with none under way, only the release is left. -/
def execStep (s : State) : State :=
  match s.susp with
  | some p => (continueCommand p s).endCommand
  | none => s.release

/-- One step of the machine in the phase it is in (R41). -/
def phaseStep (s : State) : Host.Outcome State Fault Refusal :=
  match s.mphase with
  | .boot => .next (bootStep s)
  | .poll => pollStep s
  | .exec => .next (execStep s)

/-- RX could index a byte beyond the mailbox (20_memory.md R61): it may write, and the cursor is out of range. -/
def State.cursorBad (s : State) : Bool := !s.ready && decide (s.cfg.rxCap ≤ s.cur)

/-- The bytes of a line and its NUL, laid out from index `i` on. -/
def cellsFrom (i : Nat) : List Byte → Memory
  | [] => [(i, 0x00)]
  | b :: bs => (i, b) :: cellsFrom (i + 1) bs

/-- The line and its NUL at the head of the buffer, every byte behind them as it was. -/
def Memory.placeLine (m : Memory) (line : List Byte) : Memory :=
  cellsFrom 0 line ++ m.filter fun c => decide (line.length < c.1)

/-- A mailbox in which the line is pending and MAIN about to read `ready` (20_memory.md R70): what the host's sending
that line leaves (log 17). -/
def State.placeLine (s : State) (line : List Byte) : State :=
  ((((s.setBuf (s.buf.placeLine line)).setCur 0).setReady true).setMphase .poll).setSusp none

end Sys2Proof.Machine
end

