-- ==== Sys2Proof/Machine/Step.lean ====
section
/-!
DEFINITION. The step function, and where its next instruction is stored.
-/

namespace Sys2Proof.Machine

/-- One step: boot, one read of the poll, one command, or more of a suspended command (spec 40_dispatch.md R140,
R154). A cursor beyond the buffer faults before RX could use it (log 19). -/
def step (s : State) : Host.Outcome State Fault Refusal :=
  if s.cursorBad then .fault .cursorOutOfRange else phaseStep s

/-- `s` with the instruction `w` of `nbits` bits, numbered as the opcode table numbers them, pending in the mailbox, so
that the next step runs it (log 17). -/
def State.withFetchWord (s : State) (nbits w : Nat) : State := s.placeLine (tableLine nbits w)

end Sys2Proof.Machine
end

