-- ==== Sys2Proof/Safety.lean ====
section
/-!
DEFINITION. The terms claims are made in: MAIN's share of the trace and the events a rule calls for, what an
operation leaves unchanged, the invariants of a run (spec 10_state.md R25, R35; 41_motion.md R170;
70_reset_and_hazards.md R331), and the quiescent state (40_dispatch.md R152).
-/

namespace Sys2Proof.Machine

/-! MAIN's events. RX's own events may stand anywhere between them (40_dispatch.md R154). -/

/-- The event is one of RX's. -/
def Event.isRx : Event → Bool
  | .rx _ => true
  | .tx _ => false
  | .pinSet _ => false
  | .pinClear _ => false
  | .pinRead _ _ => false
  | .delay _ => false

/-- The event is a `PinRead`. -/
def Event.isPinRead : Event → Bool
  | .rx _ => false
  | .tx _ => false
  | .pinSet _ => false
  | .pinClear _ => false
  | .pinRead _ _ => true
  | .delay _ => false

/-- The trace without the `Rx` events. -/
def State.mainTrace (s : State) : List Event := s.trace.filter fun e => !e.isRx

/-- The events of `TxLine(t)` (R146). -/
def lineEvents (c : Config) (t : List Byte) : List Event := (t ++ c.txEol).map Event.tx

/-- The events of `Pulse(a)` (41_motion.md R170). -/
def pulseEvents (a : Axis) : List Event :=
  [.pinSet (.step a), .delay .tStep, .pinClear (.step a), .delay .tStep]

/-- The events of `SetDir(a, d)` (R171). -/
def dirEvents (c : Config) (a : Axis) (d : Dir) : List Event :=
  [if dirLevel (c.polarity.get a) d then .pinSet (.dir a) else .pinClear (.dir a), .delay .tDirSettle]

/-- `n` rounds of "read `p`, answer `v`, then these events". -/
def readRounds (p : InPin) (v : Bit) (es : List Event) : Nat → List Event
  | 0 => []
  | n + 1 => (.pinRead p v :: es) ++ readRounds p v es n

/-- `n` pulses. -/
def pulseRounds (a : Axis) : Nat → List Event
  | 0 => []
  | n + 1 => pulseEvents a ++ pulseRounds a n

/-- ENV's answer to the `i`-th coming pin read (20_memory.md R75): the script's while it lasts, then the free
values. -/
def State.answer (s : State) (i : Nat) : Bit :=
  match s.env.pins[i]? with
  | some b => b
  | none => Config.freePin (s.env.drawnPins + (i - s.env.pins.length))

/-- The events of a move's reads and pulses (41_motion.md R190): `done` rounds, then the read that stopped it, answered
`v`, when fewer than `n` steps were done. -/
def moveEvents (a : Axis) (d : Dir) (done n : Nat) (v : Bit) : List Event :=
  readRounds (limitPin a d) true (pulseEvents a) done ++ if done < n then [.pinRead (limitPin a d) v] else []

/-- The loop bound `move_axis(a, n)` takes (R175): `|n|`, but the draw for `n = -2^31` (R182). -/
def boundOf (n : Int) (s : State) : Nat := if n = i32Min then s.drawBound.1 else n.natAbs

/-- MAIN's events of `move_axis(a, n)` that completes `k` steps (R173, R190). -/
def moveAxisEvents (s : State) (a : Axis) (n : Int) (k : Nat) : List Event :=
  if n = 0 then [] else dirEvents s.cfg a (dirOf n) ++ moveEvents a (dirOf n) k (boundOf n s) (s.answer k)

/-- The delta of an absolute move to `t` (R186, R187): `t - pos[a]`, but the draw when that is no i32 (R188). -/
def deltaOf (a : Axis) (t : Int) (s : State) : Int :=
  if InI32 (t - s.pos.get a) then t - s.pos.get a else s.drawI32.1.toInt

/-! The pin answers a homing meets, from the `o`-th coming answer on. -/

/-- The seek of `home(a)` finds the limit after `k` pulses (42_homing.md R212, R213). -/
def SeekFinds (s : State) (a : Axis) (o k : Nat) : Prop :=
  (∀ i, i < k → s.answer (o + i) = true) ∧ s.answer (o + k) = false ∧
  (k < s.cfg.seekCeiling.get a ∨ (k = s.cfg.seekCeiling.get a ∧ s.cfg.seekTie = .limitWins))

/-- The seek of `home(a)` reaches the ceiling (R213, R214). -/
def SeekFails (s : State) (a : Axis) (o : Nat) : Prop :=
  (∀ i, i < s.cfg.seekCeiling.get a → s.answer (o + i) = true) ∧
  (s.answer (o + s.cfg.seekCeiling.get a) = true ∨ s.cfg.seekTie = .timeoutWins)

/-- How many reads of a re-approach that starts at the `o`-th answer one step of the model makes at most (log 14). -/
def reapproachReads (s : State) (o : Nat) : Nat := max 1 (s.env.pins.length - o)

/-- The re-approach meets the switch after `m` slow pulses, within one step of the model (R217). -/
def ReapproachEnds (s : State) (o m : Nat) : Prop :=
  (∀ i, i < m → s.answer (o + i) = true) ∧ s.answer (o + m) = false ∧ m < reapproachReads s o

/-- The re-approach does not meet the switch within one step of the model (R218). -/
def ReapproachGoesOn (s : State) (o : Nat) : Prop := ∀ i, i < reapproachReads s o → s.answer (o + i) = true

/-- The events of a failed seek; `v` is the last answer (42_homing.md R221). -/
def seekFailEvents (c : Config) (a : Axis) (v : Bit) : List Event :=
  dirEvents c a .minus ++ readRounds (.neg a) true (pulseEvents a) (c.seekCeiling.get a) ++ [.pinRead (.neg a) v]

/-- The pulses and the delay of one slow step (R217). -/
def slowEvents (a : Axis) : List Event := pulseEvents a ++ [.delay .tSlow]

/-- The events of `home(a)` up to `m` slow pulses into the re-approach, after `k` seek pulses (R221). -/
def homeEvents (c : Config) (a : Axis) (k m : Nat) : List Event :=
  dirEvents c a .minus ++ readRounds (.neg a) true (pulseEvents a) k ++ [.pinRead (.neg a) false] ++
  dirEvents c a .plus ++ pulseRounds a c.backoffSteps ++
  dirEvents c a .minus ++ readRounds (.neg a) true (slowEvents a) m

/-- `home(a)`, called at the `o`-th answer, returns within one step of the model: `Ok` or `Err` as `ok` says, after
`n` answers and with MAIN's events `es` (R221). -/
def HomeReturns (s : State) (a : Axis) (o : Nat) (ok : Bool) (n : Nat) (es : List Event) : Prop :=
  match ok with
  | true => ∃ k m, SeekFinds s a o k ∧ ReapproachEnds s (o + (k + 1)) m ∧ n = k + 1 + (m + 1) ∧
      es = homeEvents s.cfg a k m ++ [.pinRead (.neg a) false]
  | false => SeekFails s a o ∧ n = s.cfg.seekCeiling.get a + 1 ∧
      es = seekFailEvents s.cfg a (s.answer (o + s.cfg.seekCeiling.get a))

/-! The commands of an axis. -/

/-- `PAN_REL` or `TILT_REL`. -/
def relInstr : Axis → Int → Instr
  | .pan, n => .panRel n
  | .tilt, n => .tiltRel n

/-- `PAN_ABS` or `TILT_ABS`. -/
def absInstr : Axis → Int → Instr
  | .pan, t => .panAbs t
  | .tilt, t => .tiltAbs t

/-- `HOME_PAN` or `HOME_TILT`. -/
def homeInstr : Axis → Instr
  | .pan => .homePan
  | .tilt => .homeTilt

/-- The command is one of the three homing commands. -/
def isHomingInstr : Instr → Bool
  | .panRel _ => false
  | .tiltRel _ => false
  | .panAbs _ => false
  | .tiltAbs _ => false
  | .homePan => true
  | .homeTilt => true
  | .homeAll => true
  | .center => false
  | .getPos => false
  | .getStatus => false
  | .ping => false
  | .unknown _ => false

/-- The suspended form of `HOME_PAN` or `HOME_TILT`. -/
def suspendedHome : Axis → Suspended
  | .pan => .homePan
  | .tilt => .homeTilt

/-- The texts of an axis's response lines, written out as 40_dispatch.md R148 lists them. -/
def okText : Axis → List Byte
  | .pan => ascii "OK PAN:"
  | .tilt => ascii "OK TILT:"

/-- `HOMING PAN...` and `HOMING TILT...`. -/
def homingText : Axis → List Byte
  | .pan => ascii "HOMING PAN..."
  | .tilt => ascii "HOMING TILT..."

/-- `PAN HOMED` and `TILT HOMED`. -/
def homedText : Axis → List Byte
  | .pan => ascii "PAN HOMED"
  | .tilt => ascii "TILT HOMED"

/-- The homing failure lines. -/
def notFoundText : Axis → List Byte
  | .pan => ascii "ERROR: PAN NEG LIMIT NOT FOUND"
  | .tilt => ascii "ERROR: TILT NEG LIMIT NOT FOUND"

/-- The line that tells the host how a homing of `a` ended. -/
def homeResultText (a : Axis) (ok : Bool) : List Byte := if ok then homedText a else notFoundText a

/-! What stays as it was. -/

/-- Every byte of the mailbox reads as before, and its registers hold what they held. -/
def MailboxKept (s t : State) : Prop :=
  (∀ i, t.memRead i = s.memRead i) ∧ t.cur = s.cur ∧ t.ready = s.ready

/-- Why a move goes on for `k` of `n` steps in direction `d` from position `p` and no further (41_motion.md R175 to
R178): the answers and the positions up to there pass both checks; the next, if there is one, fails one. -/
structure MoveRun (c : Config) (a : Axis) (d : Dir) (p : Int) (ans : Nat → Bit) (n k : Nat) : Prop where
  le : k ≤ n
  reads : ∀ i, i < k → ans i = true
  soft : ∀ i, i < k → inSoftRange c a (p + d.sign * (i + 1)) = true
  stop : k < n → ans k = false ∨ inSoftRange c a (p + d.sign * (k + 1)) = false

/-- The registers and latches of an axis hold what they held. -/
def AxisKept (a : Axis) (s t : State) : Prop :=
  t.pos.get a = s.pos.get a ∧ t.homed.get a = s.homed.get a ∧ t.hphase.get a = s.hphase.get a ∧
  t.stepOut.get a = s.stepOut.get a ∧ t.dirOut.get a = s.dirOut.get a

/-- MAIN's phase, its position in a command and the configuration are what they were. -/
def ControlKept (s t : State) : Prop := t.mphase = s.mphase ∧ t.susp = s.susp ∧ t.cfg = s.cfg

/-- The frame of an operation that touches neither axis. -/
def NothingMoved (s t : State) : Prop :=
  MailboxKept s t ∧ AxisKept .pan s t ∧ AxisKept .tilt s t ∧ ControlKept s t ∧ t.loop = s.loop

/-- The frame of a motion of axis `a`: only `pos[a]`, the latch of `DIR[a]` and the loop registers may differ, and
the latch of `STEP[a]` is at its inactive level again or as it was (41_motion.md R170, R180). -/
def OnlyMoved (a : Axis) (s t : State) : Prop :=
  MailboxKept s t ∧ AxisKept a.other s t ∧ ControlKept s t ∧
  t.homed.get a = s.homed.get a ∧ t.hphase.get a = s.hphase.get a ∧
  (t.stepOut.get a = false ∨ t.stepOut.get a = s.stepOut.get a)

/-- The frame of a homing of axis `a` (42_homing.md R210, R221): nothing of the other axis, of the mailbox, of MAIN's
phase or of the configuration differs. -/
def OnlyHomed (a : Axis) (s t : State) : Prop :=
  MailboxKept s t ∧ AxisKept a.other s t ∧ t.mphase = s.mphase ∧ t.cfg = s.cfg ∧
  (t.stepOut.get a = false ∨ t.stepOut.get a = s.stepOut.get a)

/-- What the end of a command leaves of the mailbox and of MAIN (40_dispatch.md R145): every byte and the cursor as they
were, `ready = 0`, MAIN polling and inside no command. -/
def Released (s t : State) : Prop :=
  (∀ i, t.memRead i = s.memRead i) ∧ t.cur = s.cur ∧ t.ready = false ∧ t.mphase = .poll ∧ t.susp = none ∧ t.cfg = s.cfg

/-- The latches of an axis after slow pulses only (41_motion.md R170, 42_homing.md R219): DIR as it was, STEP at its
inactive level again or as it was. -/
def LatchesAfterPulses (a : Axis) (s t : State) : Prop :=
  t.dirOut.get a = s.dirOut.get a ∧ (t.stepOut.get a = false ∨ t.stepOut.get a = s.stepOut.get a)

/-- The latches of an axis after a homing of it has gone past its seek, or has failed: DIR toward the negative limit
(42_homing.md R214, R219), STEP at its inactive level or as it was. -/
def LatchesAfterHoming (a : Axis) (s t : State) : Prop :=
  t.dirOut.get a = dirLevel (s.cfg.polarity.get a) .minus ∧
  (t.stepOut.get a = false ∨ t.stepOut.get a = s.stepOut.get a)

/-! What ENV sends on the serial line. -/

/-- `s` with the serial input of another environment. -/
def State.otherSerial (s : State) (e : Env) : State :=
  s.setEnv { s.env with arrivals := e.arrivals, endless := e.endless, boundary := e.boundary }

/-- `u` differs from `t` at most in its `Rx` events and in ENV's serial input. -/
def SerialTwin (t u : State) : Prop :=
  u.mainTrace = t.mainTrace ∧ u = { t.otherSerial u.env with trace := u.trace }

/-! The invariants. -/

/-- The pending line (10_state.md R35 (ii)). -/
def PendingLine (s : State) : Prop :=
  ∃ n, 1 ≤ n ∧ n ≤ s.cfg.rxCap - 1 ∧ s.memRead n = some 0x00 ∧
    ∀ i, i < n → ∃ b, s.memRead i = some b ∧ isPrintable b = true

/-- The position of every axis lies in its soft range (R25). -/
def InSoftRange (s : State) : Prop :=
  ∀ a, s.cfg.softMin.get a ≤ s.pos.get a ∧ s.pos.get a ≤ s.cfg.softMax.get a

/-- What holds at every state of every run between two steps of the model. -/
structure RunInv (s : State) : Prop where
  /-- The buffer is in its canonical form. -/
  canonical : s.buf.wf = true
  /-- The buffer is the array `buf[0 .. RX_CAP-1]` (20_memory.md R61). -/
  whole : s.buf.whole s.cfg.rxCap = true
  /-- `0 <= cur <= RX_CAP - 1` (R35 (i)). -/
  cursor : s.cur ≤ s.cfg.rxCap - 1
  /-- While a line is pending (R35 (ii)). -/
  pending : s.ready = true → s.cur = 0 ∧ PendingLine s
  /-- While a line is being assembled (R35 (iii)). -/
  assembling : s.ready = false → ∀ i, i < s.cur → ∃ b, s.memRead i = some b ∧ isPrintable b = true
  /-- The soft range (R25). -/
  soft : InSoftRange s
  /-- No pulse is in progress (41_motion.md R170). -/
  stepLow : ∀ a, s.stepOut.get a = false
  /-- Between two steps MAIN is inside a command exactly when the command is suspended. -/
  execSuspended : s.mphase = .exec ↔ s.susp.isSome = true
  /-- `ready = 1` throughout `Exec` (R41). -/
  execReady : s.mphase = .exec → s.ready = true
  /-- A suspended command is in the slow re-approach of its axis, which is not homed (42_homing.md R211, R228). -/
  suspended : ∀ p, s.susp = some p →
    s.hphase.get p.axis = .reapproachingSlow ∧ s.hphase.get p.axis.other = .idle ∧ s.homed.get p.axis = false
  /-- With no command suspended both homing phases are `Idle` (R36). -/
  idle : s.susp = none → s.hphase.get .pan = .idle ∧ s.hphase.get .tilt = .idle

/-- The level of `STEP[a]` after a trace, from the level `v` before it; `none` when a `PinSet` was no rising edge
(41_motion.md R170). -/
def stepLevel (a : Axis) (v : Bit) : List Event → Option Bit
  | [] => some v
  | e :: es =>
    if e = .pinSet (.step a) then (if v then none else stepLevel a true es)
    else if e = .pinClear (.step a) then stepLevel a false es
    else stepLevel a v es

/-- Every `PinSet(STEP[a])` of the trace is a rising edge, and the latch stands at the level the trace left. -/
def RisingEdges (s : State) : Prop :=
  ∀ a, stepLevel a false s.trace = some false ∧ s.stepOut.get a = false

/-- How far the DIR level of an axis has settled. -/
inductive Settling
  | neverSet
  | written
  | settled
deriving DecidableEq, Repr

/-- The settling of `DIR[a]` after a trace; `none` when a pulse began on an unsettled DIR
(70_reset_and_hazards.md R331). -/
def settling (a : Axis) (x : Settling) : List Event → Option Settling
  | [] => some x
  | e :: es =>
    if e = .pinSet (.dir a) ∨ e = .pinClear (.dir a) then settling a .written es
    else if e = .delay .tDirSettle then settling a (if x = .neverSet then .neverSet else .settled) es
    else if e = .pinSet (.step a) then (if x = .settled then settling a .settled es else none)
    else settling a x es

/-- Every pulse so far began on a settled DIR, and a suspended re-approach stands on a settled DIR. -/
def DirSettled (s : State) : Prop :=
  (∀ a, settling a .neverSet s.trace ≠ none) ∧
  ∀ p, s.susp = some p → settling p.axis .neverSet s.trace = some .settled

/-! The end of a run (40_dispatch.md R152). -/

/-- ENV has no undelivered byte: its input is finite, and its script holds no further byte. -/
abbrev Env.delivered (e : Env) : Prop := e.endless = false ∧ ∀ bs ∈ e.arrivals, bs = []

/-- Quiescent (R152): polling, no line pending, and no undelivered byte. -/
def Quiescent (s : State) : Prop := s.mphase = .poll ∧ s.ready = false ∧ s.env.delivered

/-- A complete finite run (R152): `n` steps from `s` that answer next reach the quiescent state `t`, and no fewer reach a
quiescent state. -/
def CompleteRun (s : State) (n : Nat) (t : State) : Prop :=
  Sys2Proof.core.run n s = .next t ∧ Quiescent t ∧ ∀ m u, m < n → Sys2Proof.core.run m s = .next u → ¬Quiescent u

/-- The result of a run (R152): the trace and the state there. -/
structure RunResult where
  trace : List Event
  state : State
deriving DecidableEq, Repr

/-- `r` is the result of a complete finite run from `s` (R152). -/
def RunsTo (s : State) (r : RunResult) : Prop := ∃ n t, CompleteRun s n t ∧ r = { trace := t.trace, state := t }

end Sys2Proof.Machine
end

