-- ==== Sys2Proof/Certificates/Slice0/Obligations.lean ====
section
/-!
DEFINITION. The statements for the provers. Each docstring names what of the spec it formalises. Where a statement
rests on a decision or a derivation of the spec (its marks `decision` and `derived`) or on a choice of the model (a log
entry), it says so and OBLIGATIONS.json gives it the basis 'derived'.
-/

open Sys2Proof Sys2Proof.Machine

/-! ## Reset, boot, the cycle -/

/-- Reset (10_state.md R45, 70_reset_and_hazards.md R321): every item the table gives a value; all of these but `pos` and
`homed` rest on the spec's decision D27. The buffer has its `RX_CAP` bytes (20_memory.md R61), whatever they hold. The last
clause is no reset value: it is the pan range and the two home references (00_scope.md R8, 10_state.md R27, R29), which
the source leaves unaudited (log 27). -/
def Obligations.ResetLeavesTheTableValues : Prop :=
  State.reset.pos = ⟨0, 0⟩ ∧ State.reset.homed = ⟨false, false⟩ ∧ State.reset.ready = false ∧ State.reset.cur = 0 ∧
  State.reset.stepOut = ⟨false, false⟩ ∧ State.reset.mphase = .boot ∧ State.reset.hphase = ⟨.idle, .idle⟩ ∧
  State.reset.trace = [] ∧ (∀ i, i < State.reset.cfg.rxCap → ∃ b, State.reset.memRead i = some b) ∧
  State.reset.cfg.Fixed

/-- Boot (70_reset_and_hazards.md R322): `READY` and nothing else, then the first poll; and no step goes back to Boot,
so it is transmitted once. -/
def Obligations.BootSendsReadyOnce : Prop :=
  (∀ s : State, s.mphase = .boot → s.cursorBad = false → ∃ t, step s = .next t ∧ t.mphase = .poll ∧
    t.mainTrace = s.mainTrace ++ lineEvents s.cfg (ascii "READY") ∧
    AxisKept .pan s t ∧ AxisKept .tilt s t ∧ t.loop = s.loop ∧ t.susp = s.susp ∧ t.cfg = s.cfg) ∧
  (∀ s t : State, step s = .next t → t.mphase ≠ .boot)

/-- The poll and quiescence (40_dispatch.md R141, R152): with no line pending and no byte to deliver, a step of the poll
reads `ready` and changes nothing but ENV's script, so the machine stays quiescent. -/
def Obligations.QuiescentPollChangesNothing : Prop :=
  ∀ s : State, Quiescent s → s.cur < s.cfg.rxCap →
    step s = .next (s.setEnv { s.env with arrivals := s.env.arrivals.tail }) ∧
    Quiescent (s.setEnv { s.env with arrivals := s.env.arrivals.tail })

/-- The end of a run (40_dispatch.md R152; its definition is decision D37): a complete finite run has one result, the
machine goes on from it with the same trace and state, and `step_out[a] = 0` there when the run began in a state that
meets the invariant. -/
def Obligations.CompleteRunHasOneResult : Prop :=
  (∀ (s : State) (r r' : RunResult), RunsTo s r → RunsTo s r' → r = r') ∧
  (∀ (s t : State) (n m : Nat), CompleteRun s n t → t.cur < t.cfg.rxCap → ∃ u, Sys2Proof.core.run m t = .next u ∧
    Quiescent u ∧ u = t.setEnv { t.env with arrivals := u.env.arrivals }) ∧
  (∀ (s : State) (r : RunResult), RunInv s → RunsTo s r → RunInv r.state ∧ ∀ a, r.state.stepOut.get a = false)

/-- A step runs the decoded instruction (40_dispatch.md R140, R142, R143): from the poll, with a line pending that
decodes to `i`, the step is `exec i`, taken after the boundary of the poll's read and the line's draw if it takes one;
then the mailbox is released, or the command is left suspended (the model's slices of the slow re-approach, log 14). -/
def Obligations.StepRunsDecodedInstruction : Prop :=
  ∀ (s t : State) (line : List Byte) (i : Instr), s.mphase = .poll → s.ready = true → s.fetch = some line →
    decode (lineDraw line s.preempt).1 line = .ok i →
    exec i (lineDraw line s.preempt).2.beginCommand = .next t →
    (t.susp = none → step s = .next t.release) ∧ (t.susp ≠ none → step s = .next t)

/-- The host's placing of a table word (log 17): the next step runs the instruction the decoder reads from it. The
premises say that the word is a line without an out-of-range number. -/
def Obligations.FetchWordIsRunNext : Prop :=
  ∀ (s t : State) (nbits w : Nat) (i : Instr), needsDraw (tableLine nbits w) = false →
    decodeTableWord nbits w = some i → exec i (s.withFetchWord nbits w).preempt.beginCommand = .next t →
    step (s.withFetchWord nbits w) = .next t.endCommand

/-- Release and lost input (40_dispatch.md R145, 20_memory.md R87): after the step that runs a command the mailbox holds
the bytes it held, whatever was delivered meanwhile; `ready` is 0 and MAIN polls, unless the command is suspended, when
`ready` stays 1 (that a step ends inside a command at all is the model's slicing of the slow re-approach, log 14, a DESIGN
CHOICE; the rules say the first outcome). -/
def Obligations.CommandStepReleasesMailbox : Prop :=
  ∀ s t : State, s.mphase = .poll → s.ready = true → step s = .next t →
    (∀ i, t.memRead i = s.memRead i) ∧ t.cur = s.cur ∧
    ((t.susp = none ∧ t.ready = false ∧ t.mphase = .poll) ∨
      (t.susp ≠ none ∧ t.ready = true ∧ t.mphase = .exec))

/-- The configuration is not state: nothing writes it (10_state.md R20, R26). -/
def Obligations.StepNeverWritesConfiguration : Prop := ∀ s t : State, step s = .next t → t.cfg = s.cfg

/-- The trace is only ever appended to (10_state.md R42). -/
def Obligations.TraceOnlyGrows : Prop := ∀ s t : State, step s = .next t → ∃ es, t.trace = s.trace ++ es

/-! ## The receive interrupt and the Frame Receiver -/

/-- Line pending (20_memory.md R69): every byte is discarded; `buf`, `cur`, `ready` are unchanged. -/
def Obligations.PendingLineDiscardsEveryByte : Prop :=
  ∀ (s : State) (b : Byte), s.ready = true →
    (s.receive b).buf = s.buf ∧ (s.receive b).cur = s.cur ∧ (s.receive b).ready = s.ready

/-- Terminator (20_memory.md R70, with the byte values of decision D6). -/
def Obligations.TerminatorEndsTheLine : Prop :=
  ∀ (s : State) (b : Byte), s.ready = false → s.cur < s.cfg.rxCap → b = 0x0D ∨ b = 0x0A →
    (∀ i, (s.receive b).memRead i = if i = s.cur then some 0x00 else s.memRead i) ∧ (s.receive b).cur = 0 ∧
    (s.receive b).ready = decide (s.cur ≠ 0)

/-- Printable bytes with and without room, and every other byte (20_memory.md R71, R72, R73, with the byte range of
decision D5). -/
def Obligations.OtherBytesAreStoredOrDropped : Prop :=
  ∀ (s : State) (b : Byte), s.ready = false → b ≠ 0x0D → b ≠ 0x0A →
    ((0x20 ≤ b.toNat ∧ b.toNat ≤ 0x7E ∧ s.cur < s.cfg.rxCap - 1 →
      (∀ i, (s.receive b).memRead i = if i = s.cur then some b else s.memRead i) ∧
      (s.receive b).cur = s.cur + 1 ∧ (s.receive b).ready = false) ∧
    (¬(0x20 ≤ b.toNat ∧ b.toNat ≤ 0x7E ∧ s.cur < s.cfg.rxCap - 1) →
      (∀ i, (s.receive b).memRead i = s.memRead i) ∧ (s.receive b).cur = s.cur ∧ (s.receive b).ready = false))

/-- The Frame Receiver transmits nothing, reads no pin, touches no state but `buf`, `cur`, `ready`, and never clears
`ready` (20_memory.md R74); its only event is `Rx(b)`. -/
def Obligations.ReceiverTouchesOnlyTheMailbox : Prop :=
  ∀ (s : State) (b : Byte), (s.receive b).trace = s.trace ++ [.rx b] ∧
    AxisKept .pan s (s.receive b) ∧ AxisKept .tilt s (s.receive b) ∧ ControlKept s (s.receive b) ∧
    (s.receive b).loop = s.loop ∧ (s.receive b).env = s.env ∧ (s.ready = true → (s.receive b).ready = true)

/-- From wire bytes to the pending line (30_encoding.md R102, R116, R117; derived in the spec): the bytes up to a
terminator become the line with every unprintable byte deleted, cut to `RX_CAP - 1` bytes; an empty one is no line. -/
def Obligations.WireBytesBecomeThePendingLine : Prop :=
  ∀ (s : State) (w : List Byte) (e : Byte), s.ready = false → s.cur = 0 → w.all (fun b => !isTerminator b) = true →
    isTerminator e = true →
    (s.deliver (w ++ [e])).cur = 0 ∧
    (((w.filter isPrintable).take (s.cfg.rxCap - 1) = [] → (s.deliver (w ++ [e])).ready = false) ∧
     ((w.filter isPrintable).take (s.cfg.rxCap - 1) ≠ [] → (s.deliver (w ++ [e])).ready = true ∧
        (s.deliver (w ++ [e])).fetch = some ((w.filter isPrintable).take (s.cfg.rxCap - 1))))

/-- CR LF ends one line, not two (70_reset_and_hazards.md R339; derived in the spec): the LF is dropped while the line is
pending, and is an empty line after the release. -/
def Obligations.CrLfMakesOneLine : Prop :=
  ∀ s : State, s.ready = false → s.cur < s.cfg.rxCap →
    (0 < s.cur → (s.deliver [0x0D, 0x0A]).ready = true ∧ (s.deliver [0x0D, 0x0A]).cur = 0 ∧
      ∀ i, (s.deliver [0x0D, 0x0A]).memRead i = (s.deliver [0x0D]).memRead i) ∧
    (s.cur = 0 → (s.deliver [0x0A]).ready = false ∧ (s.deliver [0x0A]).cur = 0)

/-- A request is executed (30_encoding.md R121, 40_dispatch.md R140; derived): a quiescent machine to which ENV delivers
the line of a well-formed command that fits the mailbox, and a terminator, runs that command in that step. -/
def Obligations.RequestOnTheWireIsExecuted : Prop :=
  ∀ (s t : State) (i : Instr) (e : Byte) (rest : List (List Byte)), s.mphase = .poll → s.ready = false → s.cur = 0 →
    i.wellFormed = true → (encode i).length ≤ s.cfg.rxCap - 1 → isTerminator e = true →
    s.env.arrivals = (encode i ++ [e]) :: rest →
    exec i ((s.setEnv { s.env with arrivals := rest }).deliver (encode i ++ [e])).beginCommand = .next t →
    step s = .next t.endCommand

/-! ## Encoding -/

/-- Decode and encode agree (30_encoding.md R108, R110, R112, 40_dispatch.md R147; derived): every well-formed command, with
every operand, is read back from its line, whatever the draw. -/
def Obligations.EncodeThenDecodeIsIdentity : Prop :=
  ∀ (free : BitVec 32) (i : Instr), i.wellFormed = true → decode free (encode i) = .ok i

/-- Every line decodes, to a well-formed command; what is no line is rejected by name (30_encoding.md R100, R109, R116,
40_dispatch.md R143; the rejections are the model's, log 18). -/
def Obligations.EveryLineDecodesWellFormed : Prop :=
  ∀ (free : BitVec 32) (line : List Byte),
    (line ≠ [] → line.all isPrintable = true → ∃ i, decode free line = .ok i ∧ i.wellFormed = true) ∧
    (line = [] → decode free line = .error .emptyLine) ∧
    (line ≠ [] → line.all isPrintable = false → decode free line = .error .unprintable)

/-- The rows 1 to 11 are mutually exclusive (30_encoding.md R109; derived in the spec): no line matches two. -/
def Obligations.AtMostOneRowMatches : Prop :=
  ∀ line : List Byte,
    (([prefixPanRel, prefixTiltRel, prefixPanAbs, prefixTiltAbs].filter fun p => beginsWith p line).length +
      ([literalHomePan, literalHomeTilt, literalHomeAll, literalCenter, literalGetPos, literalGetStatus,
        literalPing].filter fun l => line == l).length) ≤ 1

/-- The prefix rows parse their suffix (30_encoding.md R108, R110, R111), whatever printable bytes it holds. -/
def Obligations.PrefixRowsParseTheSuffix : Prop :=
  ∀ (free : BitVec 32) (s : List Byte), s.all isPrintable = true →
    decode free (ascii "PAN_REL:" ++ s) = .ok (.panRel (parseInt free s)) ∧
    decode free (ascii "TILT_REL:" ++ s) = .ok (.tiltRel (parseInt free s)) ∧
    decode free (ascii "PAN_ABS:" ++ s) = .ok (.panAbs (parseInt free s)) ∧
    decode free (ascii "TILT_ABS:" ++ s) = .ok (.tiltAbs (parseInt free s))

/-- The integer argument (30_encoding.md R111 to R114; rests on decisions D7 and D8): spaces, at most one sign, any number
of leading zeros and the decimal text of a natural, followed by anything that does not go on with a digit, is that number
with its sign when it is an i32, else the draw. -/
def Obligations.ParseIntReadsLeadingDecimal : Prop :=
  ∀ (free : BitVec 32) (m spaces zeros : Nat) (tail : List Byte), (∀ b ∈ tail.head?, isDigit b = false) →
    (InI32 m →
      parseInt free (List.replicate spaces 0x20 ++ (List.replicate zeros 0x30 ++ dec m ++ tail)) = m ∧
      parseInt free (List.replicate spaces 0x20 ++ 0x2B :: (List.replicate zeros 0x30 ++ dec m ++ tail)) = m) ∧
    (¬InI32 m →
      parseInt free (List.replicate spaces 0x20 ++ (List.replicate zeros 0x30 ++ dec m ++ tail)) = free.toInt ∧
      parseInt free (List.replicate spaces 0x20 ++ 0x2B :: (List.replicate zeros 0x30 ++ dec m ++ tail)) = free.toInt) ∧
    (InI32 (-m) →
      parseInt free (List.replicate spaces 0x20 ++ 0x2D :: (List.replicate zeros 0x30 ++ dec m ++ tail)) = -m) ∧
    (¬InI32 (-m) →
      parseInt free (List.replicate spaces 0x20 ++ 0x2D :: (List.replicate zeros 0x30 ++ dec m ++ tail)) = free.toInt)

/-- No digit after the leading spaces and the optional sign gives 0 (30_encoding.md R111: "yields 0 for any non-numeric or
empty suffix", R112, R114), whatever follows: empty, a second sign, a space after a sign, other text and any digits behind
it (that only the leading number counts is decision D7). -/
def Obligations.NonNumericSuffixIsZero : Prop :=
  ∀ (free : BitVec 32) (spaces : Nat) (tail : List Byte), (∀ b ∈ tail.head?, isDigit b = false) →
    parseInt free (List.replicate spaces 0x20 ++ 0x2D :: tail) = 0 ∧
    parseInt free (List.replicate spaces 0x20 ++ 0x2B :: tail) = 0 ∧
    ((∀ b ∈ tail.head?, b ≠ 0x20 ∧ b ≠ 0x2D ∧ b ≠ 0x2B) → parseInt free (List.replicate spaces 0x20 ++ tail) = 0)

/-- A few table words (30_encoding.md R108), written out from its hex column: bytes first to last. -/
def Obligations.DecoderReadsTheTableWords : Prop :=
  decode 0 [0x50, 0x41, 0x4E, 0x5F, 0x52, 0x45, 0x4C, 0x3A, 0x2D, 0x35] = .ok (.panRel (-5)) ∧
  decode 0 [0x54, 0x49, 0x4C, 0x54, 0x5F, 0x41, 0x42, 0x53, 0x3A, 0x34, 0x32] = .ok (.tiltAbs 42) ∧
  decode 0 [0x48, 0x4F, 0x4D, 0x45, 0x5F, 0x41, 0x4C, 0x4C] = .ok .homeAll ∧
  decode 0 [0x47, 0x45, 0x54, 0x5F, 0x53, 0x54, 0x41, 0x54, 0x55, 0x53] = .ok .getStatus ∧
  decode 0 [0x70, 0x69, 0x6E, 0x67] = .ok (.unknown [0x70, 0x69, 0x6E, 0x67])

/-- `dec` (40_dispatch.md R147; decision D24): `'-'` exactly before a negative value, then only digits, no leading zero
but in `0` itself, and the digits denote the magnitude. -/
def Obligations.DecIsShortestDecimal : Prop :=
  ∀ v : Int, ∃ ds : List Byte, dec v = (if v < 0 then [0x2D] else []) ++ ds ∧ ds.all isDigit = true ∧
    readDigits 0 ds = v.natAbs ∧ (ds.head? = some 0x30 → ds = [0x30]) ∧ ds ≠ []

/-! ## Primitives -/

/-- The step pulse (41_motion.md R170; the active level is decision D13). -/
def Obligations.PulseIsSetDelayClearDelay : Prop :=
  ∀ (s : State) (a : Axis), s.ready = true →
    (s.pulse a).mainTrace = s.mainTrace ++
      [.pinSet (.step a), .delay .tStep, .pinClear (.step a), .delay .tStep] ∧
    (s.pulse a).stepOut.get a = false ∧ (s.pulse a).dirOut = s.dirOut ∧ (s.pulse a).pos = s.pos ∧
    OnlyMoved a s (s.pulse a) ∧ (s.pulse a).loop = s.loop

/-- SetDir (41_motion.md R171; the levels are decision D12). -/
def Obligations.SetDirWritesLevelAndSettles : Prop :=
  ∀ (s : State) (a : Axis) (d : Dir), s.ready = true →
    (s.setDir a d).dirOut.get a = decide ((d = .plus ∧ s.cfg.polarity.get a = .normal) ∨
      (d = .minus ∧ s.cfg.polarity.get a = .inverted)) ∧
    (s.setDir a d).mainTrace = s.mainTrace ++
      [if (s.setDir a d).dirOut.get a then .pinSet (.dir a) else .pinClear (.dir a), .delay .tDirSettle] ∧
    (s.setDir a d).pos = s.pos ∧ (s.setDir a d).stepOut = s.stepOut ∧ OnlyMoved a s (s.setDir a d) ∧
    (s.setDir a d).loop = s.loop

/-- TxLine (40_dispatch.md R146): the bytes of the text, then of `TX_EOL`, in order, and nothing else. -/
def Obligations.TxLineSendsTextThenEol : Prop :=
  ∀ (s : State) (t : List Byte), s.ready = true →
    (s.txLine t).mainTrace = s.mainTrace ++ t.map .tx ++ s.cfg.txEol.map .tx ∧ NothingMoved s (s.txLine t)

/-! ## Motion -/

/-- A zero request does nothing at all (41_motion.md R173). -/
def Obligations.ZeroMoveDoesNothing : Prop := ∀ (a : Axis) (s : State), moveAxis a 0 s = (0, s)

/-- `move_axis` whole (41_motion.md R180), for a request other than 0: the direction of the sign, DIR set once and settled
before the loop, then as many steps as pass the two checks in order, each a pulse and an update, up to `|n|` (a drawn
bound for `-2^31`, R182); the registers and outputs it may write, and no other. -/
def Obligations.MoveAxisFollowsItsLoop : Prop :=
  ∀ (a : Axis) (n : Int) (s : State), n ≠ 0 → s.ready = true → ∃ k : Nat,
    MoveRun s.cfg a (if 0 < n then .plus else .minus) (s.pos.get a) s.answer (boundOf n s) k ∧
    (moveAxis a n s).1 = (if 0 < n then (k : Int) else -(k : Int)) ∧
    (moveAxis a n s).2.pos.get a = s.pos.get a + (moveAxis a n s).1 ∧
    (moveAxis a n s).2.mainTrace = s.mainTrace ++ dirEvents s.cfg a (if 0 < n then .plus else .minus) ++
      moveEvents a (if 0 < n then .plus else .minus) k (boundOf n s) (s.answer k) ∧
    (moveAxis a n s).2.dirOut.get a = dirLevel (s.cfg.polarity.get a) (if 0 < n then .plus else .minus) ∧
    OnlyMoved a s (moveAxis a n s).2

/-- What follows for every call of `move_axis` (41_motion.md R181 items 1 to 6; derived in the spec): step-count
conservation, the position accounts for the steps, one pulse per step and none on the other axis, the soft range is
kept, and the reads are one per step and one more when the move stops short. -/
def Obligations.MoveAxisConservesSteps : Prop :=
  ∀ (a : Axis) (n : Int) (s : State), InI32 n →
    (moveAxis a n s).1.natAbs ≤ n.natAbs ∧
    ((moveAxis a n s).1 = 0 ∨ (0 < (moveAxis a n s).1 ∧ 0 < n) ∨ ((moveAxis a n s).1 < 0 ∧ n < 0)) ∧
    (moveAxis a n s).2.pos.get a = s.pos.get a + (moveAxis a n s).1 ∧
    (moveAxis a n s).2.pos.get a.other = s.pos.get a.other ∧
    (moveAxis a n s).2.mainTrace.count (.pinSet (.step a)) =
      s.mainTrace.count (.pinSet (.step a)) + (moveAxis a n s).1.natAbs ∧
    (moveAxis a n s).2.mainTrace.count (.pinSet (.step a.other)) = s.mainTrace.count (.pinSet (.step a.other)) ∧
    (s.cfg.softMin.get a ≤ s.pos.get a ∧ s.pos.get a ≤ s.cfg.softMax.get a →
      s.cfg.softMin.get a ≤ (moveAxis a n s).2.pos.get a ∧ (moveAxis a n s).2.pos.get a ≤ s.cfg.softMax.get a ∧
      ((moveAxis a n s).1.natAbs : Int) ≤ s.cfg.softMax.get a - s.cfg.softMin.get a) ∧
    ((moveAxis a n s).2.mainTrace.filter Event.isPinRead).length = (s.mainTrace.filter Event.isPinRead).length +
      (if (moveAxis a n s).1.natAbs < (if n = 0 then 0 else boundOf n s) then (moveAxis a n s).1.natAbs + 1
        else (moveAxis a n s).1.natAbs)

/-- With every read unasserted a move goes as far as asked or to the soft bound, whichever is nearer (41_motion.md R181
item 7; derived in the spec). -/
def Obligations.UnobstructedMoveClamps : Prop :=
  ∀ (a : Axis) (n : Int) (s : State), n ≠ i32Min →
    s.cfg.softMin.get a ≤ s.pos.get a → s.pos.get a ≤ s.cfg.softMax.get a →
    (∀ i, i < n.natAbs → s.answer i = true) →
    (moveAxis a n s).1 =
      max (s.cfg.softMin.get a) (min (s.cfg.softMax.get a) (s.pos.get a + n)) - s.pos.get a

/-- `PAN_REL` and `TILT_REL` complete (41_motion.md R184, R185) on every state and operand: `move_axis`, then the response
with the steps taken; what else changes is what `move_axis` may change. -/
def Obligations.RelativeMoveCompletes : Prop :=
  ∀ (a : Axis) (n : Int) (s : State), s.ready = true → InI32 n → ∃ (k : Nat) (r : Int) (t : State),
    exec (relInstr a n) s = .next t ∧
    (n = 0 → k = 0) ∧
    (n ≠ 0 → MoveRun s.cfg a (dirOf n) (s.pos.get a) s.answer (boundOf n s) k) ∧
    r = (dirOf n).sign * k ∧
    t.pos.get a = s.pos.get a + r ∧
    t.mainTrace = s.mainTrace ++ moveAxisEvents s a n k ++ lineEvents s.cfg (okText a ++ dec r) ∧
    OnlyMoved a s t ∧
    t.dirOut.get a = if n = 0 then s.dirOut.get a else dirLevel (s.cfg.polarity.get a) (dirOf n)

/-- `PAN_ABS` and `TILT_ABS` complete (41_motion.md R186, R187, R188) on every state and operand: `move_axis` by the delta
to the target (a drawn i32 when that is none), then the response with the new position. -/
def Obligations.AbsoluteMoveCompletes : Prop :=
  ∀ (a : Axis) (target : Int) (s : State), s.ready = true → ∃ (k : Nat) (r : Int) (t : State),
    exec (absInstr a target) s = .next t ∧
    (deltaOf a target s = 0 → k = 0) ∧
    (deltaOf a target s ≠ 0 →
      MoveRun s.cfg a (dirOf (deltaOf a target s)) (s.pos.get a) s.answer (boundOf (deltaOf a target s) s) k) ∧
    r = (dirOf (deltaOf a target s)).sign * k ∧
    t.pos.get a = s.pos.get a + r ∧
    t.mainTrace = s.mainTrace ++ moveAxisEvents s a (deltaOf a target s) k ++
      lineEvents s.cfg (okText a ++ dec (t.pos.get a)) ∧
    OnlyMoved a s t ∧
    t.dirOut.get a = if deltaOf a target s = 0 then s.dirOut.get a
      else dirLevel (s.cfg.polarity.get a) (dirOf (deltaOf a target s))

/-- An unobstructed absolute move ends at its target, or at the soft bound on that side (41_motion.md R186: "a target
outside the soft range moves the axis to the bound on that side and reports the bound"). -/
def Obligations.UnobstructedAbsoluteMoveReachesTarget : Prop :=
  ∀ (a : Axis) (target : Int) (s : State), InI32 (target - s.pos.get a) → target - s.pos.get a ≠ i32Min →
    s.cfg.softMin.get a ≤ s.pos.get a → s.pos.get a ≤ s.cfg.softMax.get a →
    (∀ i, i < (target - s.pos.get a).natAbs → s.answer i = true) →
    ∃ t, exec (absInstr a target) s = .next t ∧
      t.pos.get a = max (s.cfg.softMin.get a) (min (s.cfg.softMax.get a) target)

/-- `CENTER` completes (41_motion.md R189): the pan move, then the tilt move, each toward 0 and never past it when the
position is in the soft range, then one `CENTERED`; the DIR latch of an axis at 0 is as it was, that of any other has the
level of its move (R173, R174); neither homed flag nor phase changes. -/
def Obligations.CenterCompletes : Prop :=
  ∀ s : State, s.ready = true → InSoftRange s → ∃ (k j : Nat) (u t : State),
    (moveAxis .pan (-s.pos.pan) s).2 = u ∧ exec .center s = .next t ∧
    t.mainTrace = s.mainTrace ++ moveAxisEvents s .pan (-s.pos.pan) k ++ moveAxisEvents u .tilt (-s.pos.tilt) j ++
      lineEvents s.cfg (ascii "CENTERED") ∧
    MoveRun s.cfg .pan (dirOf (-s.pos.pan)) s.pos.pan s.answer s.pos.pan.natAbs k ∧
    MoveRun s.cfg .tilt (dirOf (-s.pos.tilt)) s.pos.tilt u.answer s.pos.tilt.natAbs j ∧
    t.pos.pan = s.pos.pan + (dirOf (-s.pos.pan)).sign * k ∧
    t.pos.tilt = s.pos.tilt + (dirOf (-s.pos.tilt)).sign * j ∧
    ((∀ i, i < s.pos.pan.natAbs + s.pos.tilt.natAbs → s.answer i = true) → t.pos = ⟨0, 0⟩) ∧
    MailboxKept s t ∧ ControlKept s t ∧ t.homed = s.homed ∧ t.hphase = s.hphase ∧
    ∀ a, (t.stepOut.get a = false ∨ t.stepOut.get a = s.stepOut.get a) ∧
      t.dirOut.get a = if s.pos.get a = 0 then s.dirOut.get a
        else dirLevel (s.cfg.polarity.get a) (dirOf (-s.pos.get a))

/-- Idempotent centre (41_motion.md R189, R173): at `(0, 0)` the trace is the response alone. -/
def Obligations.CenterAtOriginOnlyResponds : Prop :=
  ∀ s : State, s.ready = true → s.pos = ⟨0, 0⟩ → ∃ t, exec .center s = .next t ∧
    t.mainTrace = s.mainTrace ++ lineEvents s.cfg (ascii "CENTERED") ∧ NothingMoved s t

/-! ## Homing -/

/-- A homing that returns (42_homing.md R221, R223, R224; the clear at entry is decision D17): the lines before and after,
the events of the phases; on success the reference position and the flag (R219), on timeout the old position, the flag
cleared and DIR left toward the negative limit (R214); nothing else changes (R229). -/
def Obligations.HomingCommandReturns : Prop :=
  ∀ (s : State) (a : Axis) (ok : Bool) (n : Nat) (es : List Event), s.ready = true → HomeReturns s a 0 ok n es →
    ∃ t, exec (homeInstr a) s = .next t ∧
      t.mainTrace = s.mainTrace ++ lineEvents s.cfg (homingText a) ++ es ++ lineEvents s.cfg (homeResultText a ok) ∧
      t.pos.get a = (if ok then s.cfg.homeRef.get a else s.pos.get a) ∧ t.homed.get a = ok ∧
      t.hphase.get a = .idle ∧ t.dirOut.get a = dirLevel (s.cfg.polarity.get a) .minus ∧
      OnlyHomed a s t ∧ t.susp = s.susp

/-- A homing whose slow re-approach goes on (42_homing.md R217, R218; that a step of the model ends here is log 14): no
response, `homed[a] = 0`, `pos[a]` not written, the phase `ReapproachingSlow`. -/
def Obligations.HomingCommandGoesOn : Prop :=
  ∀ (s : State) (a : Axis) (k : Nat), s.ready = true → SeekFinds s a 0 k → ReapproachGoesOn s (k + 1) →
    ∃ t, exec (homeInstr a) s = .next t ∧ t.susp = some (suspendedHome a) ∧
      t.mainTrace = s.mainTrace ++ lineEvents s.cfg (homingText a) ++
        homeEvents s.cfg a k (reapproachReads s (k + 1)) ∧
      t.pos.get a = s.pos.get a ∧ t.homed.get a = false ∧ t.hphase.get a = .reapproachingSlow ∧
      LatchesAfterHoming a s t ∧ OnlyHomed a s t

/-- A suspended `HOME_PAN` or `HOME_TILT` (42_homing.md R217 to R219, R223, R224; the slices are log 14) whose switch
re-asserts in this step finishes: the reference position, the flag, the response, the release. -/
def Obligations.SuspendedHomingFinishes : Prop :=
  ∀ (s : State) (a : Axis) (m : Nat), s.ready = true → s.mphase = .exec → s.susp = some (suspendedHome a) →
    ReapproachEnds s 0 m → ∃ t, step s = .next t ∧ Released s t ∧
      t.pos.get a = s.cfg.homeRef.get a ∧ t.homed.get a = true ∧ t.hphase.get a = .idle ∧
      LatchesAfterPulses a s t ∧ AxisKept a.other s t ∧
      t.mainTrace = s.mainTrace ++ readRounds (.neg a) true (slowEvents a) m ++ [.pinRead (.neg a) false] ++
        lineEvents s.cfg (homedText a)

/-- A suspended command whose switch does not re-assert in this step (42_homing.md R217, R218; the slices are log 14) goes
on pulsing: no response, no write to `pos` or `homed`, the same phase, `ready = 1`, still suspended. -/
def Obligations.SuspendedReapproachGoesOn : Prop :=
  ∀ (s : State) (p : Suspended), s.ready = true → s.mphase = .exec → s.susp = some p → ReapproachGoesOn s 0 →
    ∃ t, step s = .next t ∧ t.mphase = .exec ∧ t.susp = s.susp ∧ MailboxKept s t ∧
      t.pos = s.pos ∧ t.homed = s.homed ∧ t.hphase = s.hphase ∧ LatchesAfterPulses p.axis s t ∧
      AxisKept p.axis.other s t ∧ t.cfg = s.cfg ∧
      t.mainTrace = s.mainTrace ++ readRounds (.neg p.axis) true (slowEvents p.axis) (reapproachReads s 0)

/-- `HOME_ALL` whose homings both return (42_homing.md R225; the failure policy is decision D25): pan, then tilt unless pan
failed under StopAtFirstFailure, each with its lines, then `ALL HOMED` as the policy says. -/
def Obligations.HomeAllFollowsItsPolicy : Prop :=
  ∀ (s : State) (panOk tiltOk : Bool) (n n' : Nat) (es es' : List Event), s.ready = true →
    HomeReturns s .pan 0 panOk n es →
    (panOk = false ∧ s.cfg.homeAllPolicy = .stopAtFirstFailure → ∃ t, exec .homeAll s = .next t ∧
      t.mainTrace = s.mainTrace ++ lineEvents s.cfg (homingText .pan) ++ es ++
        lineEvents s.cfg (notFoundText .pan) ∧
      t.pos.pan = s.pos.pan ∧ t.homed.pan = false ∧ t.hphase.pan = .idle ∧ LatchesAfterHoming .pan s t ∧
      OnlyHomed .pan s t ∧ t.susp = s.susp) ∧
    (¬(panOk = false ∧ s.cfg.homeAllPolicy = .stopAtFirstFailure) → HomeReturns s .tilt n tiltOk n' es' →
      ∃ t, exec .homeAll s = .next t ∧
      t.mainTrace = s.mainTrace ++ lineEvents s.cfg (homingText .pan) ++ es ++
        lineEvents s.cfg (homeResultText .pan panOk) ++ lineEvents s.cfg (homingText .tilt) ++ es' ++
        lineEvents s.cfg (homeResultText .tilt tiltOk) ++
        (if s.cfg.homeAllPolicy = .attemptBothAlwaysReport ∨ (panOk = true ∧ tiltOk = true)
          then lineEvents s.cfg (ascii "ALL HOMED") else []) ∧
      t.pos = ⟨if panOk then s.cfg.homeRef.pan else s.pos.pan, if tiltOk then s.cfg.homeRef.tilt else s.pos.tilt⟩ ∧
      t.homed = ⟨panOk, tiltOk⟩ ∧ t.hphase = ⟨.idle, .idle⟩ ∧ (∀ a, LatchesAfterHoming a s t) ∧ MailboxKept s t ∧
      ControlKept s t)

/-- `HOME_ALL` whose pan homing goes on in its slow re-approach (42_homing.md R218, R225; log 14): the command is
suspended there, tilt untouched. -/
def Obligations.HomeAllGoesOnInPan : Prop :=
  ∀ (s : State) (k : Nat), s.ready = true → SeekFinds s .pan 0 k → ReapproachGoesOn s (k + 1) →
    ∃ t, exec .homeAll s = .next t ∧ t.susp = some .homeAllPan ∧
      t.mainTrace = s.mainTrace ++ lineEvents s.cfg (homingText .pan) ++
        homeEvents s.cfg .pan k (reapproachReads s (k + 1)) ∧
      t.pos = s.pos ∧ t.homed.pan = false ∧ t.hphase.pan = .reapproachingSlow ∧ LatchesAfterHoming .pan s t ∧
      OnlyHomed .pan s t

/-- `HOME_ALL` whose pan homing returns and whose tilt homing goes on (42_homing.md R218, R225; log 14): suspended in tilt,
with what pan's homing answered. -/
def Obligations.HomeAllGoesOnInTilt : Prop :=
  ∀ (s : State) (panOk : Bool) (n k : Nat) (es : List Event), s.ready = true → HomeReturns s .pan 0 panOk n es →
    ¬(panOk = false ∧ s.cfg.homeAllPolicy = .stopAtFirstFailure) →
    SeekFinds s .tilt n k → ReapproachGoesOn s (n + (k + 1)) →
    ∃ t, exec .homeAll s = .next t ∧ t.susp = some (.homeAllTilt panOk) ∧
      t.mainTrace = s.mainTrace ++ lineEvents s.cfg (homingText .pan) ++ es ++
        lineEvents s.cfg (homeResultText .pan panOk) ++ lineEvents s.cfg (homingText .tilt) ++
        homeEvents s.cfg .tilt k (reapproachReads s (n + (k + 1))) ∧
      t.pos = ⟨if panOk then s.cfg.homeRef.pan else s.pos.pan, s.pos.tilt⟩ ∧ t.homed = ⟨panOk, false⟩ ∧
      t.hphase = ⟨.idle, .reapproachingSlow⟩ ∧ (∀ a, LatchesAfterHoming a s t) ∧ MailboxKept s t ∧
      t.mphase = s.mphase ∧ t.cfg = s.cfg

/-- A suspended `HOME_ALL` whose switch re-asserts in the tilt re-approach (42_homing.md R225; log 14) ends with the tilt
line and the policy's last line. -/
def Obligations.SuspendedHomeAllFinishesInTilt : Prop :=
  ∀ (s : State) (m : Nat) (panOk : Bool), s.ready = true → s.mphase = .exec → ReapproachEnds s 0 m →
    s.susp = some (.homeAllTilt panOk) → ∃ t, step s = .next t ∧ Released s t ∧
      t.pos.tilt = s.cfg.homeRef.tilt ∧ t.homed.tilt = true ∧ t.hphase.tilt = .idle ∧
      LatchesAfterPulses .tilt s t ∧ AxisKept .pan s t ∧
      t.mainTrace = s.mainTrace ++ readRounds (.neg .tilt) true (slowEvents .tilt) m ++ [.pinRead (.neg .tilt) false] ++
        lineEvents s.cfg (homedText .tilt) ++
        (if s.cfg.homeAllPolicy = .attemptBothAlwaysReport ∨ panOk = true
          then lineEvents s.cfg (ascii "ALL HOMED") else [])

/-- A suspended `HOME_ALL` whose switch re-asserts in the pan re-approach, and whose tilt homing then returns
(42_homing.md R225; log 14): pan is reported, tilt homed, and the policy's last line ends it. -/
def Obligations.SuspendedHomeAllFinishesFromPan : Prop :=
  ∀ (s : State) (m n : Nat) (tiltOk : Bool) (es : List Event), s.ready = true → s.mphase = .exec →
    ReapproachEnds s 0 m → s.susp = some .homeAllPan → HomeReturns s .tilt (m + 1) tiltOk n es →
    ∃ t, step s = .next t ∧ Released s t ∧
      t.pos = ⟨s.cfg.homeRef.pan, if tiltOk then s.cfg.homeRef.tilt else s.pos.tilt⟩ ∧ t.homed = ⟨true, tiltOk⟩ ∧
      t.hphase = ⟨.idle, .idle⟩ ∧ LatchesAfterPulses .pan s t ∧ LatchesAfterHoming .tilt s t ∧
      t.mainTrace = s.mainTrace ++ readRounds (.neg .pan) true (slowEvents .pan) m ++ [.pinRead (.neg .pan) false] ++
        lineEvents s.cfg (homedText .pan) ++ lineEvents s.cfg (homingText .tilt) ++ es ++
        lineEvents s.cfg (homeResultText .tilt tiltOk) ++
        (if s.cfg.homeAllPolicy = .attemptBothAlwaysReport ∨ tiltOk = true
          then lineEvents s.cfg (ascii "ALL HOMED") else [])

/-- A suspended `HOME_ALL` whose switch re-asserts in the pan re-approach, and whose tilt homing then goes on
(42_homing.md R218, R225; log 14): pan is homed and reported, the command suspended again, in tilt. -/
def Obligations.SuspendedHomeAllPassesToTilt : Prop :=
  ∀ (s : State) (m k : Nat), s.ready = true → s.mphase = .exec → ReapproachEnds s 0 m → s.susp = some .homeAllPan →
    SeekFinds s .tilt (m + 1) k → ReapproachGoesOn s (m + 1 + (k + 1)) →
    ∃ t, step s = .next t ∧ t.mphase = .exec ∧ t.susp = some (.homeAllTilt true) ∧
      t.pos = ⟨s.cfg.homeRef.pan, s.pos.tilt⟩ ∧ t.homed = ⟨true, false⟩ ∧
      t.hphase = ⟨.idle, .reapproachingSlow⟩ ∧ LatchesAfterPulses .pan s t ∧ LatchesAfterHoming .tilt s t ∧
      MailboxKept s t ∧ t.cfg = s.cfg ∧
      t.mainTrace = s.mainTrace ++ readRounds (.neg .pan) true (slowEvents .pan) m ++ [.pinRead (.neg .pan) false] ++
        lineEvents s.cfg (homedText .pan) ++ lineEvents s.cfg (homingText .tilt) ++
        homeEvents s.cfg .tilt k (reapproachReads s (m + 1 + (k + 1)))

/-- On this hardware's fixed reference values (10_state.md R29) a homed axis stands at 0 (pan) or at its soft minimum
(tilt) (42_homing.md R219). -/
def Obligations.HomedPositionIsTheReference : Prop :=
  ∀ (s : State) (a : Axis) (n : Nat) (es : List Event), s.cfg.Fixed → s.ready = true → HomeReturns s a 0 true n es →
    ∃ t, exec (homeInstr a) s = .next t ∧ t.homed.get a = true ∧
      t.pos.get a = match a with
        | .pan => 0
        | .tilt => s.cfg.softMin.tilt

/-! ## Queries and the unknown command -/

/-- `GET_POS` completes (43_query.md R250) on every state: the two positions, nothing written, no pin touched. -/
def Obligations.GetPosReportsBothPositions : Prop :=
  ∀ s : State, s.ready = true → ∃ t, exec .getPos s = .next t ∧
    t.mainTrace = s.mainTrace ++ lineEvents s.cfg (ascii "POS PAN:" ++ dec s.pos.pan ++ ascii " TILT:" ++ dec s.pos.tilt) ∧
    NothingMoved s t

/-- `GET_STATUS` completes (43_query.md R251 to R254; the fields and their order are decision D26) on every state: four reads
in field order, then the line, `1` for an asserted switch (read as 0). -/
def Obligations.GetStatusReportsInputsAndFlags : Prop :=
  ∀ s : State, s.ready = true → ∃ t, exec .getStatus s = .next t ∧
    t.mainTrace = s.mainTrace ++
      [.pinRead (.neg .pan) (s.answer 0), .pinRead (.pos .pan) (s.answer 1), .pinRead (.neg .tilt) (s.answer 2),
        .pinRead (.pos .tilt) (s.answer 3)] ++
      lineEvents s.cfg (ascii "STATUS PN:" ++ ascii (if s.answer 0 then "0" else "1") ++
        ascii " PP:" ++ ascii (if s.answer 1 then "0" else "1") ++
        ascii " TN:" ++ ascii (if s.answer 2 then "0" else "1") ++
        ascii " TP:" ++ ascii (if s.answer 3 then "0" else "1") ++
        ascii " PH:" ++ ascii (if s.homed.pan then "1" else "0") ++
        ascii " TH:" ++ ascii (if s.homed.tilt then "1" else "0")) ∧
    NothingMoved s t

/-- `PING` completes (43_query.md R255): `PONG`, nothing read or written. -/
def Obligations.PingAnswersPong : Prop :=
  ∀ s : State, s.ready = true → ∃ t, exec .ping s = .next t ∧
    t.mainTrace = s.mainTrace ++ lineEvents s.cfg (ascii "PONG") ∧ NothingMoved s t

/-- `UNKNOWN` completes (43_query.md R256): `ERROR:` and the text, no space between, nothing written. -/
def Obligations.UnknownEchoesTheLine : Prop :=
  ∀ (text : List Byte) (s : State), s.ready = true → ∃ t, exec (.unknown text) s = .next t ∧
    t.mainTrace = s.mainTrace ++ lineEvents s.cfg (ascii "ERROR:" ++ text) ∧ NothingMoved s t

/-! ## Whole-machine rules -/

/-- Every command keeps the mailbox while it runs (20_memory.md R80, R85, 40_dispatch.md R145): `ready` stays 1, and no byte of
`buf` nor `cur` changes, whatever ENV delivers. The same of every later slice of a suspended command (log 14), up to the
release. -/
def Obligations.CommandsKeepTheMailbox : Prop :=
  (∀ (i : Instr) (s t : State), s.ready = true → exec i s = .next t →
    MailboxKept s t ∧ t.mphase = s.mphase ∧ t.cfg = s.cfg) ∧
  (∀ s t : State, s.mphase = .exec → s.ready = true → step s = .next t →
    Released s t ∨ (MailboxKept s t ∧ t.mphase = .exec ∧ t.susp ≠ none ∧ t.cfg = s.cfg))

/-- Only homing writes `homed` (10_state.md R23, R24): every other command, every read of the poll and boot leave both
flags and both homing phases, and boot and the poll leave `pos` as well. -/
def Obligations.OnlyHomingWritesHomed : Prop :=
  (∀ (i : Instr) (s t : State), isHomingInstr i = false → exec i s = .next t →
    t.homed = s.homed ∧ t.hphase = s.hphase ∧ t.susp = s.susp) ∧
  (∀ s t : State, s.mphase ≠ .exec → s.preempt.ready = false → step s = .next t →
    t.homed = s.homed ∧ t.hphase = s.hphase ∧ t.pos = s.pos)

/-- Nothing ENV sends on the serial line can alter a command in progress (40_dispatch.md R150, 20_memory.md R87): with any
other serial input the command ends in the same state but for the `Rx` events and ENV's own record of what it delivered.
The same of every step that begins with `ready = 1`: the step that runs a pending line, with its release, and every later
slice of a suspended command (log 14). -/
def Obligations.SerialInputCannotAlterACommand : Prop :=
  (∀ (i : Instr) (s t : State) (e : Env), s.ready = true → exec i s = .next t →
    ∃ u, exec i (s.otherSerial e) = .next u ∧ SerialTwin t u) ∧
  (∀ (s t : State) (e : Env), s.ready = true → step s = .next t →
    ∃ u, step (s.otherSerial e) = .next u ∧ SerialTwin t u)

/-! ## Invariants -/

/-- The invariants hold right after reset. -/
def Obligations.ResetMeetsTheInvariants : Prop := RunInv State.reset ∧ RisingEdges State.reset ∧ DirSettled State.reset

/-- Every step keeps the invariant: from the spec, the soft range of both axes, the mailbox's invariants, no pulse in
progress, `Idle` outside homing and `ready = 1` in `Exec` (10_state.md R25, R35, R36, R41, 41_motion.md R170; derived there);
of the model's own choice, that MAIN is in `Exec` between two steps exactly when a command is suspended, in the slow
re-approach (logs 14, 15, 16), and the buffer as a canonical list of its bytes (log 11). -/
def Obligations.StepKeepsTheInvariant : Prop := ∀ s t : State, RunInv s → step s = .next t → RunInv t

/-- No fault and no refusal from a state that meets the invariant (60_exceptions.md R270: every command is total on every
state reachable under a well-formed configuration). -/
def Obligations.InvariantStatesNeverStop : Prop := ∀ s : State, RunInv s → ∃ t, step s = .next t

/-- Every pulse is a rising edge (41_motion.md R170; derived in the spec): each step keeps it. -/
def Obligations.StepKeepsRisingEdges : Prop := ∀ s t : State, RisingEdges s → step s = .next t → RisingEdges t

/-- DIR before STEP (70_reset_and_hazards.md R331): no pulse begins before the DIR level of its axis has been written and has
settled; each step keeps it. That a suspended re-approach stands on a settled DIR is of the model's slices (log 14), and
is what makes the property inductive. -/
def Obligations.StepKeepsDirBeforeStep : Prop := ∀ s t : State, DirSettled s → step s = .next t → DirSettled t
end

