-- ==== Sys2Proof/Laws/State.lean ====
section
/-!
SUPPORT. One lemma per field per register write of State, true by rfl, and the laws of a pair of registers, so that no
later proof unfolds a record update.
-/

namespace Sys2Proof

@[simp] theorem PerAxis.get_set_self {α : Type} (p : PerAxis α) (a : Axis) (v : α) : (p.set a v).get a = v := by
  cases a <;> rfl

@[simp] theorem PerAxis.get_set_other {α : Type} (p : PerAxis α) (a : Axis) (v : α) :
    (p.set a v).get a.other = p.get a.other := by
  cases a <;> rfl

theorem PerAxis.get_set_ne {α : Type} (p : PerAxis α) (a b : Axis) (v : α) (h : b ≠ a) :
    (p.set a v).get b = p.get b := by
  cases a <;> cases b <;> first | rfl | exact absurd rfl h

theorem PerAxis.get_set {α : Type} (p : PerAxis α) (a b : Axis) (v : α) :
    (p.set a v).get b = if b = a then v else p.get b := by
  cases a <;> cases b <;> rfl

@[simp] theorem PerAxis.get_pan {α : Type} (x y : α) : (PerAxis.mk x y).get .pan = x := rfl
@[simp] theorem PerAxis.get_tilt {α : Type} (x y : α) : (PerAxis.mk x y).get .tilt = y := rfl

theorem PerAxis.ext_get {α : Type} (p q : PerAxis α) (h : ∀ a, p.get a = q.get a) : p = q := by
  have hp := h .pan
  have ht := h .tilt
  cases p
  cases q
  simp only [PerAxis.get_pan, PerAxis.get_tilt] at hp ht
  rw [hp, ht]

@[simp] theorem Axis.other_ne (a : Axis) : a.other ≠ a := by cases a <;> decide
@[simp] theorem Axis.ne_other (a : Axis) : a ≠ a.other := by cases a <;> decide
@[simp] theorem Axis.other_other (a : Axis) : a.other.other = a := by cases a <;> rfl
@[simp] theorem Axis.other_pan : Axis.other .pan = .tilt := rfl
@[simp] theorem Axis.other_tilt : Axis.other .tilt = .pan := rfl

theorem Axis.eq_or_eq_other (a b : Axis) : b = a ∨ b = a.other := by cases a <;> cases b <;> decide

end Sys2Proof

namespace Sys2Proof.Machine

@[simp] theorem State.setPos_cfg (s : State) (a : Axis) (v : Int) : (s.setPos a v).cfg = s.cfg := rfl
@[simp] theorem State.setPos_pos (s : State) (a : Axis) (v : Int) : (s.setPos a v).pos = s.pos.set a v := rfl
@[simp] theorem State.setPos_homed (s : State) (a : Axis) (v : Int) : (s.setPos a v).homed = s.homed := rfl
@[simp] theorem State.setPos_buf (s : State) (a : Axis) (v : Int) : (s.setPos a v).buf = s.buf := rfl
@[simp] theorem State.setPos_cur (s : State) (a : Axis) (v : Int) : (s.setPos a v).cur = s.cur := rfl
@[simp] theorem State.setPos_ready (s : State) (a : Axis) (v : Int) : (s.setPos a v).ready = s.ready := rfl
@[simp] theorem State.setPos_stepOut (s : State) (a : Axis) (v : Int) : (s.setPos a v).stepOut = s.stepOut := rfl
@[simp] theorem State.setPos_dirOut (s : State) (a : Axis) (v : Int) : (s.setPos a v).dirOut = s.dirOut := rfl
@[simp] theorem State.setPos_mphase (s : State) (a : Axis) (v : Int) : (s.setPos a v).mphase = s.mphase := rfl
@[simp] theorem State.setPos_hphase (s : State) (a : Axis) (v : Int) : (s.setPos a v).hphase = s.hphase := rfl
@[simp] theorem State.setPos_loop (s : State) (a : Axis) (v : Int) : (s.setPos a v).loop = s.loop := rfl
@[simp] theorem State.setPos_susp (s : State) (a : Axis) (v : Int) : (s.setPos a v).susp = s.susp := rfl
@[simp] theorem State.setPos_trace (s : State) (a : Axis) (v : Int) : (s.setPos a v).trace = s.trace := rfl
@[simp] theorem State.setPos_env (s : State) (a : Axis) (v : Int) : (s.setPos a v).env = s.env := rfl

@[simp] theorem State.setHomed_cfg (s : State) (a : Axis) (v : Bit) : (s.setHomed a v).cfg = s.cfg := rfl
@[simp] theorem State.setHomed_pos (s : State) (a : Axis) (v : Bit) : (s.setHomed a v).pos = s.pos := rfl
@[simp] theorem State.setHomed_homed (s : State) (a : Axis) (v : Bit) : (s.setHomed a v).homed = s.homed.set a v := rfl
@[simp] theorem State.setHomed_buf (s : State) (a : Axis) (v : Bit) : (s.setHomed a v).buf = s.buf := rfl
@[simp] theorem State.setHomed_cur (s : State) (a : Axis) (v : Bit) : (s.setHomed a v).cur = s.cur := rfl
@[simp] theorem State.setHomed_ready (s : State) (a : Axis) (v : Bit) : (s.setHomed a v).ready = s.ready := rfl
@[simp] theorem State.setHomed_stepOut (s : State) (a : Axis) (v : Bit) : (s.setHomed a v).stepOut = s.stepOut := rfl
@[simp] theorem State.setHomed_dirOut (s : State) (a : Axis) (v : Bit) : (s.setHomed a v).dirOut = s.dirOut := rfl
@[simp] theorem State.setHomed_mphase (s : State) (a : Axis) (v : Bit) : (s.setHomed a v).mphase = s.mphase := rfl
@[simp] theorem State.setHomed_hphase (s : State) (a : Axis) (v : Bit) : (s.setHomed a v).hphase = s.hphase := rfl
@[simp] theorem State.setHomed_loop (s : State) (a : Axis) (v : Bit) : (s.setHomed a v).loop = s.loop := rfl
@[simp] theorem State.setHomed_susp (s : State) (a : Axis) (v : Bit) : (s.setHomed a v).susp = s.susp := rfl
@[simp] theorem State.setHomed_trace (s : State) (a : Axis) (v : Bit) : (s.setHomed a v).trace = s.trace := rfl
@[simp] theorem State.setHomed_env (s : State) (a : Axis) (v : Bit) : (s.setHomed a v).env = s.env := rfl

@[simp] theorem State.setBuf_cfg (s : State) (m : Memory) : (s.setBuf m).cfg = s.cfg := rfl
@[simp] theorem State.setBuf_pos (s : State) (m : Memory) : (s.setBuf m).pos = s.pos := rfl
@[simp] theorem State.setBuf_homed (s : State) (m : Memory) : (s.setBuf m).homed = s.homed := rfl
@[simp] theorem State.setBuf_buf (s : State) (m : Memory) : (s.setBuf m).buf = m := rfl
@[simp] theorem State.setBuf_cur (s : State) (m : Memory) : (s.setBuf m).cur = s.cur := rfl
@[simp] theorem State.setBuf_ready (s : State) (m : Memory) : (s.setBuf m).ready = s.ready := rfl
@[simp] theorem State.setBuf_stepOut (s : State) (m : Memory) : (s.setBuf m).stepOut = s.stepOut := rfl
@[simp] theorem State.setBuf_dirOut (s : State) (m : Memory) : (s.setBuf m).dirOut = s.dirOut := rfl
@[simp] theorem State.setBuf_mphase (s : State) (m : Memory) : (s.setBuf m).mphase = s.mphase := rfl
@[simp] theorem State.setBuf_hphase (s : State) (m : Memory) : (s.setBuf m).hphase = s.hphase := rfl
@[simp] theorem State.setBuf_loop (s : State) (m : Memory) : (s.setBuf m).loop = s.loop := rfl
@[simp] theorem State.setBuf_susp (s : State) (m : Memory) : (s.setBuf m).susp = s.susp := rfl
@[simp] theorem State.setBuf_trace (s : State) (m : Memory) : (s.setBuf m).trace = s.trace := rfl
@[simp] theorem State.setBuf_env (s : State) (m : Memory) : (s.setBuf m).env = s.env := rfl

@[simp] theorem State.setCur_cfg (s : State) (n : Nat) : (s.setCur n).cfg = s.cfg := rfl
@[simp] theorem State.setCur_pos (s : State) (n : Nat) : (s.setCur n).pos = s.pos := rfl
@[simp] theorem State.setCur_homed (s : State) (n : Nat) : (s.setCur n).homed = s.homed := rfl
@[simp] theorem State.setCur_buf (s : State) (n : Nat) : (s.setCur n).buf = s.buf := rfl
@[simp] theorem State.setCur_cur (s : State) (n : Nat) : (s.setCur n).cur = n := rfl
@[simp] theorem State.setCur_ready (s : State) (n : Nat) : (s.setCur n).ready = s.ready := rfl
@[simp] theorem State.setCur_stepOut (s : State) (n : Nat) : (s.setCur n).stepOut = s.stepOut := rfl
@[simp] theorem State.setCur_dirOut (s : State) (n : Nat) : (s.setCur n).dirOut = s.dirOut := rfl
@[simp] theorem State.setCur_mphase (s : State) (n : Nat) : (s.setCur n).mphase = s.mphase := rfl
@[simp] theorem State.setCur_hphase (s : State) (n : Nat) : (s.setCur n).hphase = s.hphase := rfl
@[simp] theorem State.setCur_loop (s : State) (n : Nat) : (s.setCur n).loop = s.loop := rfl
@[simp] theorem State.setCur_susp (s : State) (n : Nat) : (s.setCur n).susp = s.susp := rfl
@[simp] theorem State.setCur_trace (s : State) (n : Nat) : (s.setCur n).trace = s.trace := rfl
@[simp] theorem State.setCur_env (s : State) (n : Nat) : (s.setCur n).env = s.env := rfl

@[simp] theorem State.setReady_cfg (s : State) (v : Bit) : (s.setReady v).cfg = s.cfg := rfl
@[simp] theorem State.setReady_pos (s : State) (v : Bit) : (s.setReady v).pos = s.pos := rfl
@[simp] theorem State.setReady_homed (s : State) (v : Bit) : (s.setReady v).homed = s.homed := rfl
@[simp] theorem State.setReady_buf (s : State) (v : Bit) : (s.setReady v).buf = s.buf := rfl
@[simp] theorem State.setReady_cur (s : State) (v : Bit) : (s.setReady v).cur = s.cur := rfl
@[simp] theorem State.setReady_ready (s : State) (v : Bit) : (s.setReady v).ready = v := rfl
@[simp] theorem State.setReady_stepOut (s : State) (v : Bit) : (s.setReady v).stepOut = s.stepOut := rfl
@[simp] theorem State.setReady_dirOut (s : State) (v : Bit) : (s.setReady v).dirOut = s.dirOut := rfl
@[simp] theorem State.setReady_mphase (s : State) (v : Bit) : (s.setReady v).mphase = s.mphase := rfl
@[simp] theorem State.setReady_hphase (s : State) (v : Bit) : (s.setReady v).hphase = s.hphase := rfl
@[simp] theorem State.setReady_loop (s : State) (v : Bit) : (s.setReady v).loop = s.loop := rfl
@[simp] theorem State.setReady_susp (s : State) (v : Bit) : (s.setReady v).susp = s.susp := rfl
@[simp] theorem State.setReady_trace (s : State) (v : Bit) : (s.setReady v).trace = s.trace := rfl
@[simp] theorem State.setReady_env (s : State) (v : Bit) : (s.setReady v).env = s.env := rfl

@[simp] theorem State.setMphase_cfg (s : State) (v : MPhase) : (s.setMphase v).cfg = s.cfg := rfl
@[simp] theorem State.setMphase_pos (s : State) (v : MPhase) : (s.setMphase v).pos = s.pos := rfl
@[simp] theorem State.setMphase_homed (s : State) (v : MPhase) : (s.setMphase v).homed = s.homed := rfl
@[simp] theorem State.setMphase_buf (s : State) (v : MPhase) : (s.setMphase v).buf = s.buf := rfl
@[simp] theorem State.setMphase_cur (s : State) (v : MPhase) : (s.setMphase v).cur = s.cur := rfl
@[simp] theorem State.setMphase_ready (s : State) (v : MPhase) : (s.setMphase v).ready = s.ready := rfl
@[simp] theorem State.setMphase_stepOut (s : State) (v : MPhase) : (s.setMphase v).stepOut = s.stepOut := rfl
@[simp] theorem State.setMphase_dirOut (s : State) (v : MPhase) : (s.setMphase v).dirOut = s.dirOut := rfl
@[simp] theorem State.setMphase_mphase (s : State) (v : MPhase) : (s.setMphase v).mphase = v := rfl
@[simp] theorem State.setMphase_hphase (s : State) (v : MPhase) : (s.setMphase v).hphase = s.hphase := rfl
@[simp] theorem State.setMphase_loop (s : State) (v : MPhase) : (s.setMphase v).loop = s.loop := rfl
@[simp] theorem State.setMphase_susp (s : State) (v : MPhase) : (s.setMphase v).susp = s.susp := rfl
@[simp] theorem State.setMphase_trace (s : State) (v : MPhase) : (s.setMphase v).trace = s.trace := rfl
@[simp] theorem State.setMphase_env (s : State) (v : MPhase) : (s.setMphase v).env = s.env := rfl

@[simp] theorem State.setHphase_cfg (s : State) (a : Axis) (v : HPhase) : (s.setHphase a v).cfg = s.cfg := rfl
@[simp] theorem State.setHphase_pos (s : State) (a : Axis) (v : HPhase) : (s.setHphase a v).pos = s.pos := rfl
@[simp] theorem State.setHphase_homed (s : State) (a : Axis) (v : HPhase) : (s.setHphase a v).homed = s.homed := rfl
@[simp] theorem State.setHphase_buf (s : State) (a : Axis) (v : HPhase) : (s.setHphase a v).buf = s.buf := rfl
@[simp] theorem State.setHphase_cur (s : State) (a : Axis) (v : HPhase) : (s.setHphase a v).cur = s.cur := rfl
@[simp] theorem State.setHphase_ready (s : State) (a : Axis) (v : HPhase) : (s.setHphase a v).ready = s.ready := rfl
@[simp] theorem State.setHphase_stepOut (s : State) (a : Axis) (v : HPhase) : (s.setHphase a v).stepOut = s.stepOut := rfl
@[simp] theorem State.setHphase_dirOut (s : State) (a : Axis) (v : HPhase) : (s.setHphase a v).dirOut = s.dirOut := rfl
@[simp] theorem State.setHphase_mphase (s : State) (a : Axis) (v : HPhase) : (s.setHphase a v).mphase = s.mphase := rfl
@[simp] theorem State.setHphase_hphase (s : State) (a : Axis) (v : HPhase) : (s.setHphase a v).hphase = s.hphase.set a v := rfl
@[simp] theorem State.setHphase_loop (s : State) (a : Axis) (v : HPhase) : (s.setHphase a v).loop = s.loop := rfl
@[simp] theorem State.setHphase_susp (s : State) (a : Axis) (v : HPhase) : (s.setHphase a v).susp = s.susp := rfl
@[simp] theorem State.setHphase_trace (s : State) (a : Axis) (v : HPhase) : (s.setHphase a v).trace = s.trace := rfl
@[simp] theorem State.setHphase_env (s : State) (a : Axis) (v : HPhase) : (s.setHphase a v).env = s.env := rfl

@[simp] theorem State.setLoop_cfg (s : State) (r : LoopRegs) : (s.setLoop r).cfg = s.cfg := rfl
@[simp] theorem State.setLoop_pos (s : State) (r : LoopRegs) : (s.setLoop r).pos = s.pos := rfl
@[simp] theorem State.setLoop_homed (s : State) (r : LoopRegs) : (s.setLoop r).homed = s.homed := rfl
@[simp] theorem State.setLoop_buf (s : State) (r : LoopRegs) : (s.setLoop r).buf = s.buf := rfl
@[simp] theorem State.setLoop_cur (s : State) (r : LoopRegs) : (s.setLoop r).cur = s.cur := rfl
@[simp] theorem State.setLoop_ready (s : State) (r : LoopRegs) : (s.setLoop r).ready = s.ready := rfl
@[simp] theorem State.setLoop_stepOut (s : State) (r : LoopRegs) : (s.setLoop r).stepOut = s.stepOut := rfl
@[simp] theorem State.setLoop_dirOut (s : State) (r : LoopRegs) : (s.setLoop r).dirOut = s.dirOut := rfl
@[simp] theorem State.setLoop_mphase (s : State) (r : LoopRegs) : (s.setLoop r).mphase = s.mphase := rfl
@[simp] theorem State.setLoop_hphase (s : State) (r : LoopRegs) : (s.setLoop r).hphase = s.hphase := rfl
@[simp] theorem State.setLoop_loop (s : State) (r : LoopRegs) : (s.setLoop r).loop = r := rfl
@[simp] theorem State.setLoop_susp (s : State) (r : LoopRegs) : (s.setLoop r).susp = s.susp := rfl
@[simp] theorem State.setLoop_trace (s : State) (r : LoopRegs) : (s.setLoop r).trace = s.trace := rfl
@[simp] theorem State.setLoop_env (s : State) (r : LoopRegs) : (s.setLoop r).env = s.env := rfl

@[simp] theorem State.setSusp_cfg (s : State) (p : Option Suspended) : (s.setSusp p).cfg = s.cfg := rfl
@[simp] theorem State.setSusp_pos (s : State) (p : Option Suspended) : (s.setSusp p).pos = s.pos := rfl
@[simp] theorem State.setSusp_homed (s : State) (p : Option Suspended) : (s.setSusp p).homed = s.homed := rfl
@[simp] theorem State.setSusp_buf (s : State) (p : Option Suspended) : (s.setSusp p).buf = s.buf := rfl
@[simp] theorem State.setSusp_cur (s : State) (p : Option Suspended) : (s.setSusp p).cur = s.cur := rfl
@[simp] theorem State.setSusp_ready (s : State) (p : Option Suspended) : (s.setSusp p).ready = s.ready := rfl
@[simp] theorem State.setSusp_stepOut (s : State) (p : Option Suspended) : (s.setSusp p).stepOut = s.stepOut := rfl
@[simp] theorem State.setSusp_dirOut (s : State) (p : Option Suspended) : (s.setSusp p).dirOut = s.dirOut := rfl
@[simp] theorem State.setSusp_mphase (s : State) (p : Option Suspended) : (s.setSusp p).mphase = s.mphase := rfl
@[simp] theorem State.setSusp_hphase (s : State) (p : Option Suspended) : (s.setSusp p).hphase = s.hphase := rfl
@[simp] theorem State.setSusp_loop (s : State) (p : Option Suspended) : (s.setSusp p).loop = s.loop := rfl
@[simp] theorem State.setSusp_susp (s : State) (p : Option Suspended) : (s.setSusp p).susp = p := rfl
@[simp] theorem State.setSusp_trace (s : State) (p : Option Suspended) : (s.setSusp p).trace = s.trace := rfl
@[simp] theorem State.setSusp_env (s : State) (p : Option Suspended) : (s.setSusp p).env = s.env := rfl

@[simp] theorem State.emit_cfg (s : State) (e : Event) : (s.emit e).cfg = s.cfg := rfl
@[simp] theorem State.emit_pos (s : State) (e : Event) : (s.emit e).pos = s.pos := rfl
@[simp] theorem State.emit_homed (s : State) (e : Event) : (s.emit e).homed = s.homed := rfl
@[simp] theorem State.emit_buf (s : State) (e : Event) : (s.emit e).buf = s.buf := rfl
@[simp] theorem State.emit_cur (s : State) (e : Event) : (s.emit e).cur = s.cur := rfl
@[simp] theorem State.emit_ready (s : State) (e : Event) : (s.emit e).ready = s.ready := rfl
@[simp] theorem State.emit_stepOut (s : State) (e : Event) : (s.emit e).stepOut = s.stepOut := rfl
@[simp] theorem State.emit_dirOut (s : State) (e : Event) : (s.emit e).dirOut = s.dirOut := rfl
@[simp] theorem State.emit_mphase (s : State) (e : Event) : (s.emit e).mphase = s.mphase := rfl
@[simp] theorem State.emit_hphase (s : State) (e : Event) : (s.emit e).hphase = s.hphase := rfl
@[simp] theorem State.emit_loop (s : State) (e : Event) : (s.emit e).loop = s.loop := rfl
@[simp] theorem State.emit_susp (s : State) (e : Event) : (s.emit e).susp = s.susp := rfl
@[simp] theorem State.emit_trace (s : State) (e : Event) : (s.emit e).trace = s.trace ++ [e] := rfl
@[simp] theorem State.emit_env (s : State) (e : Event) : (s.emit e).env = s.env := rfl

@[simp] theorem State.setEnv_cfg (s : State) (e : Env) : (s.setEnv e).cfg = s.cfg := rfl
@[simp] theorem State.setEnv_pos (s : State) (e : Env) : (s.setEnv e).pos = s.pos := rfl
@[simp] theorem State.setEnv_homed (s : State) (e : Env) : (s.setEnv e).homed = s.homed := rfl
@[simp] theorem State.setEnv_buf (s : State) (e : Env) : (s.setEnv e).buf = s.buf := rfl
@[simp] theorem State.setEnv_cur (s : State) (e : Env) : (s.setEnv e).cur = s.cur := rfl
@[simp] theorem State.setEnv_ready (s : State) (e : Env) : (s.setEnv e).ready = s.ready := rfl
@[simp] theorem State.setEnv_stepOut (s : State) (e : Env) : (s.setEnv e).stepOut = s.stepOut := rfl
@[simp] theorem State.setEnv_dirOut (s : State) (e : Env) : (s.setEnv e).dirOut = s.dirOut := rfl
@[simp] theorem State.setEnv_mphase (s : State) (e : Env) : (s.setEnv e).mphase = s.mphase := rfl
@[simp] theorem State.setEnv_hphase (s : State) (e : Env) : (s.setEnv e).hphase = s.hphase := rfl
@[simp] theorem State.setEnv_loop (s : State) (e : Env) : (s.setEnv e).loop = s.loop := rfl
@[simp] theorem State.setEnv_susp (s : State) (e : Env) : (s.setEnv e).susp = s.susp := rfl
@[simp] theorem State.setEnv_trace (s : State) (e : Env) : (s.setEnv e).trace = s.trace := rfl
@[simp] theorem State.setEnv_env (s : State) (e : Env) : (s.setEnv e).env = e := rfl

@[simp] theorem State.setLatch_cfg (s : State) (p : OutPin) (v : Bit) : (s.setLatch p v).cfg = s.cfg := by
  cases p <;> rfl
@[simp] theorem State.setLatch_pos (s : State) (p : OutPin) (v : Bit) : (s.setLatch p v).pos = s.pos := by
  cases p <;> rfl
@[simp] theorem State.setLatch_homed (s : State) (p : OutPin) (v : Bit) : (s.setLatch p v).homed = s.homed := by
  cases p <;> rfl
@[simp] theorem State.setLatch_buf (s : State) (p : OutPin) (v : Bit) : (s.setLatch p v).buf = s.buf := by
  cases p <;> rfl
@[simp] theorem State.setLatch_cur (s : State) (p : OutPin) (v : Bit) : (s.setLatch p v).cur = s.cur := by
  cases p <;> rfl
@[simp] theorem State.setLatch_ready (s : State) (p : OutPin) (v : Bit) : (s.setLatch p v).ready = s.ready := by
  cases p <;> rfl
@[simp] theorem State.setLatch_step_stepOut (s : State) (a : Axis) (v : Bit) :
    (s.setLatch (.step a) v).stepOut = s.stepOut.set a v := rfl
@[simp] theorem State.setLatch_dir_stepOut (s : State) (a : Axis) (v : Bit) :
    (s.setLatch (.dir a) v).stepOut = s.stepOut := rfl
@[simp] theorem State.setLatch_dir_dirOut (s : State) (a : Axis) (v : Bit) :
    (s.setLatch (.dir a) v).dirOut = s.dirOut.set a v := rfl
@[simp] theorem State.setLatch_step_dirOut (s : State) (a : Axis) (v : Bit) :
    (s.setLatch (.step a) v).dirOut = s.dirOut := rfl
@[simp] theorem State.setLatch_mphase (s : State) (p : OutPin) (v : Bit) : (s.setLatch p v).mphase = s.mphase := by
  cases p <;> rfl
@[simp] theorem State.setLatch_hphase (s : State) (p : OutPin) (v : Bit) : (s.setLatch p v).hphase = s.hphase := by
  cases p <;> rfl
@[simp] theorem State.setLatch_loop (s : State) (p : OutPin) (v : Bit) : (s.setLatch p v).loop = s.loop := by
  cases p <;> rfl
@[simp] theorem State.setLatch_susp (s : State) (p : OutPin) (v : Bit) : (s.setLatch p v).susp = s.susp := by
  cases p <;> rfl
@[simp] theorem State.setLatch_trace (s : State) (p : OutPin) (v : Bit) : (s.setLatch p v).trace = s.trace := by
  cases p <;> rfl
@[simp] theorem State.setLatch_env (s : State) (p : OutPin) (v : Bit) : (s.setLatch p v).env = s.env := by
  cases p <;> rfl

/-- Another serial input is an update of ENV's inputs alone. -/
@[simp] theorem State.otherSerial_eq (s : State) (e : Env) :
    s.otherSerial e = s.setEnv { s.env with arrivals := e.arrivals, endless := e.endless, boundary := e.boundary } := rfl

end Sys2Proof.Machine
end

