-- ==== Sys2Proof/Laws/Memory.lean ====
section
/-!
SUPPORT. The mailbox buffer: reading after writing, the canonical form that every write keeps, and what fetch
returns.
-/

namespace Sys2Proof.Machine

/-! Reading and writing. -/

@[simp] theorem Memory.read_nil (i : Nat) : Memory.read [] i = none := rfl

theorem Memory.read_write (m : Memory) (i j : Nat) (v : Byte) :
    (Memory.write m i v).read j = if j = i then some v else m.read j := by
  induction m with
  | nil => simp [Memory.write, Memory.read]
  | cons c m ih =>
    obtain ⟨k, w⟩ := c
    simp only [Memory.write]
    split
    · simp [Memory.read]
    · split
      · subst_vars
        simp only [Memory.read]
        split <;> rfl
      · simp only [Memory.read, ih]
        split <;> split <;> first | rfl | omega

@[simp] theorem Memory.read_write_self (m : Memory) (i : Nat) (v : Byte) :
    (Memory.write m i v).read i = some v := by
  simp [Memory.read_write]

theorem Memory.read_write_ne (m : Memory) {i j : Nat} (v : Byte) (h : j ≠ i) :
    (Memory.write m i v).read j = m.read j := by
  simp [Memory.read_write, h]

/-! The canonical form. -/

theorem Memory.wf_cons (c : Host.Cell) (m : Memory) :
    Memory.wf (c :: m) = true ↔ (∀ d ∈ m.head?, c.1 < d.1) ∧ Memory.wf m = true := by
  cases m <;> simp [Memory.wf]

theorem Memory.head_write (m : Memory) (i : Nat) (v : Byte) :
    ∀ d ∈ (Memory.write m i v).head?, d.1 = i ∨ ∃ e ∈ m.head?, d.1 = e.1 := by
  cases m with
  | nil => simp [Memory.write]
  | cons c m =>
    obtain ⟨j, w⟩ := c
    simp only [Memory.write]
    split
    · simp
    · split <;> simp_all

theorem Memory.head_le (c : Host.Cell) (m : Memory) (h : Memory.wf (c :: m) = true) :
    ∀ i ∈ (c :: m).map Prod.fst, c.1 ≤ i := by
  induction m generalizing c with
  | nil => simp
  | cons d m ih =>
    obtain ⟨hhead, htail⟩ := (Memory.wf_cons c (d :: m)).1 h
    have hcd : c.1 < d.1 := hhead d (by simp)
    intro i hi
    rw [List.map_cons, List.mem_cons] at hi
    rcases hi with rfl | hi
    · exact le_refl _
    · exact le_trans (le_of_lt hcd) (ih d htail i hi)

theorem Memory.wf_write (m : Memory) (i : Nat) (v : Byte) (h : m.wf = true) : (Memory.write m i v).wf = true := by
  induction m with
  | nil => rfl
  | cons c m ih =>
    obtain ⟨j, w⟩ := c
    obtain ⟨hhead, htail⟩ := (Memory.wf_cons (j, w) m).1 h
    simp only [Memory.write]
    split
    · exact (Memory.wf_cons _ _).2 ⟨by simpa using ‹i < j›, h⟩
    · split
      · subst_vars
        exact (Memory.wf_cons _ _).2 ⟨hhead, htail⟩
      · refine (Memory.wf_cons _ _).2 ⟨?_, ih htail⟩
        intro d hd
        obtain hi | ⟨e, he, hde⟩ := Memory.head_write m i v d hd
        · simp only [hi]
          omega
        · rw [hde]
          exact hhead e he

/-- Indices that count up are strictly rising. -/
theorem Memory.wf_of_indices (m : Memory) (i n : Nat) (h : m.map Prod.fst = List.range' i n) : m.wf = true := by
  induction m generalizing i n with
  | nil => rfl
  | cons c m ih =>
    cases n with
    | zero => simp at h
    | succ n =>
      rw [List.range'_succ, List.map_cons, List.cons.injEq] at h
      refine (Memory.wf_cons c m).2 ⟨?_, ih (i + 1) n h.2⟩
      intro d hd
      cases m with
      | nil => simp at hd
      | cons e m =>
        cases n with
        | zero => simp at h
        | succ n =>
          rw [List.range'_succ, List.map_cons, List.cons.injEq] at h
          simp only [List.head?_cons, Option.mem_def, Option.some.injEq] at hd
          subst hd
          omega

/-- A write to an index that has a byte changes no index. -/
theorem Memory.indices_write (m : Memory) (i : Nat) (v : Byte) (hwf : m.wf = true) (hi : i ∈ m.map Prod.fst) :
    (Memory.write m i v).map Prod.fst = m.map Prod.fst := by
  induction m with
  | nil => simp at hi
  | cons c m ih =>
    obtain ⟨j, w⟩ := c
    obtain ⟨hhead, htail⟩ := (Memory.wf_cons (j, w) m).1 hwf
    have hlow := Memory.head_le (j, w) m hwf i hi
    simp only [Memory.write]
    split
    · simp only at hlow
      omega
    · split
      · simp_all
      · rw [List.map_cons, ih htail (by simpa [‹¬i = j›] using hi), List.map_cons]

theorem Memory.whole_iff (m : Memory) (cap : Nat) : m.whole cap = true ↔ m.map Prod.fst = List.range cap := by
  simp [Memory.whole]

/-- A whole buffer is in canonical form. -/
theorem Memory.wf_of_whole {m : Memory} {cap : Nat} (h : m.whole cap = true) : m.wf = true :=
  Memory.wf_of_indices m 0 cap (by rw [(Memory.whole_iff m cap).1 h, List.range_eq_range'])

theorem Memory.whole_write (m : Memory) (cap i : Nat) (v : Byte) (h : m.whole cap = true) (hi : i < cap) :
    (Memory.write m i v).whole cap = true := by
  have hidx := (Memory.whole_iff m cap).1 h
  rw [Memory.whole_iff, Memory.indices_write m i v (Memory.wf_of_whole h) (by simpa [hidx] using hi), hidx]

theorem Memory.whole_blank (cap : Nat) : (Memory.blank cap).whole cap = true := by
  simp [Memory.whole_iff, Memory.blank, Function.comp_def]

/-- An index that is listed reads as a byte. -/
theorem Memory.read_of_mem (m : Memory) {i : Nat} (h : i ∈ m.map Prod.fst) : ∃ v, m.read i = some v := by
  induction m with
  | nil => simp at h
  | cons c m ih =>
    obtain ⟨j, w⟩ := c
    simp only [Memory.read]
    split
    · exact ⟨w, rfl⟩
    · exact ih (by simpa [‹¬i = j›] using h)

/-- Every index of a whole buffer holds a byte (R61). -/
theorem Memory.read_of_whole {m : Memory} {cap i : Nat} (h : m.whole cap = true) (hi : i < cap) :
    ∃ v, m.read i = some v :=
  Memory.read_of_mem m (by simpa [(Memory.whole_iff m cap).1 h] using hi)

/-! MemRead and MemWrite. -/

theorem State.memWrite_of_lt (s : State) {i : Nat} (v : Byte) (h : i < s.cfg.rxCap) :
    s.memWrite i v = s.setBuf (s.buf.write i v) := by
  simp [State.memWrite, h]

theorem State.memWrite_buf_wf (s : State) (i : Nat) (v : Byte) (h : s.buf.wf = true) :
    (s.memWrite i v).buf.wf = true := by
  unfold State.memWrite
  split
  · simpa using Memory.wf_write s.buf i v h
  · exact h

theorem State.memWrite_whole (s : State) (i : Nat) (v : Byte) (h : s.buf.whole s.cfg.rxCap = true) :
    (s.memWrite i v).buf.whole s.cfg.rxCap = true := by
  unfold State.memWrite
  split
  · simpa using Memory.whole_write s.buf s.cfg.rxCap i v h ‹_›
  · exact h

theorem State.memRead_memWrite (s : State) {i : Nat} (j : Nat) (v : Byte) (h : i < s.cfg.rxCap) :
    (s.memWrite i v).memRead j = if j = i then some v else s.memRead j := by
  simp [State.memWrite_of_lt s v h, State.memRead, Memory.read_write]

/-! Fetch. -/

/-- An index that reads as a byte is listed. -/
theorem Memory.mem_of_read (m : Memory) {i : Nat} {v : Byte} (h : m.read i = some v) : i ∈ m.map Prod.fst := by
  induction m with
  | nil => simp at h
  | cons c m ih =>
    obtain ⟨j, w⟩ := c
    simp only [Memory.read] at h
    split at h
    · simp_all
    · simpa using Or.inr (by simpa using ih h)

/-- If every index up to `n` reads as a byte, more than `n` bytes are listed. -/
theorem Memory.lt_length_of_reads (m : Memory) (n : Nat) (h : ∀ i, i ≤ n → ∃ v, m.read i = some v) : n < m.length := by
  have hsub : Finset.range (n + 1) ⊆ (m.map Prod.fst).toFinset := by
    intro i hi
    obtain ⟨v, hv⟩ := h i (by simpa [Nat.lt_succ_iff] using hi)
    simpa using Memory.mem_of_read m hv
  have hcard := Finset.card_le_card hsub
  have hlen := List.toFinset_card_le (m.map Prod.fst)
  simp only [Finset.card_range, List.length_map] at hcard hlen
  omega

/-- `line` stands in `m` from index `i` on, followed by a NUL. -/
def LineAt (m : Memory) : Nat → List Byte → Prop
  | i, [] => m.read i = some 0x00
  | i, b :: bs => m.read i = some b ∧ b ≠ 0x00 ∧ LineAt m (i + 1) bs

theorem fetchFrom_of_lineAt (m : Memory) (line : List Byte) (i fuel : Nat) (h : LineAt m i line)
    (hf : line.length < fuel) : fetchFrom m fuel i = some line := by
  induction line generalizing i fuel with
  | nil =>
    obtain ⟨fuel, rfl⟩ := Nat.exists_eq_succ_of_ne_zero (Nat.ne_of_gt hf)
    simp only [LineAt] at h
    simp [fetchFrom, h]
  | cons b bs ih =>
    obtain ⟨fuel, rfl⟩ := Nat.exists_eq_succ_of_ne_zero (show fuel ≠ 0 by omega)
    obtain ⟨hb, hne, hrest⟩ := h
    simp only [List.length_cons] at hf
    simp only [fetchFrom, hb, if_neg hne, ih (i + 1) fuel hrest (by omega), Option.map_some]

theorem reads_of_lineAt (m : Memory) (line : List Byte) (i : Nat) (h : LineAt m i line) :
    ∀ j, j ≤ line.length → ∃ v, m.read (i + j) = some v := by
  induction line generalizing i with
  | nil =>
    intro j hj
    obtain rfl : j = 0 := by simpa using hj
    exact ⟨_, h⟩
  | cons b bs ih =>
    intro j hj
    cases j with
    | zero => exact ⟨b, h.1⟩
    | succ j =>
      obtain ⟨v, hv⟩ := ih (i + 1) h.2.2 j (by simpa using hj)
      exact ⟨v, by rw [← hv]; congr 1; omega⟩

/-- Fetch returns the line that stands at the head of the buffer (R142). -/
theorem State.fetch_of_lineAt (s : State) (line : List Byte) (h : LineAt s.buf 0 line) : s.fetch = some line := by
  have hlen := Memory.lt_length_of_reads s.buf line.length
    (fun i hi => by simpa using reads_of_lineAt s.buf line 0 h i hi)
  exact fetchFrom_of_lineAt s.buf line 0 _ h (by omega)

theorem isPrintable_ne_nul {b : Byte} (h : isPrintable b = true) : b ≠ 0x00 := by
  rintro rfl
  exact absurd h (by decide)

/-- A run of printable bytes ended by a NUL is a line. -/
theorem exists_lineAt (m : Memory) (n i : Nat) (hnul : m.read (i + n) = some 0x00)
    (h : ∀ j, j < n → ∃ b, m.read (i + j) = some b ∧ isPrintable b = true) :
    ∃ line, LineAt m i line ∧ line.length = n ∧ line.all isPrintable = true := by
  induction n generalizing i with
  | zero => exact ⟨[], hnul, rfl, rfl⟩
  | succ n ih =>
    obtain ⟨b, hb, hp⟩ := h 0 (by omega)
    obtain ⟨line, hline, hlen, hall⟩ := ih (i + 1)
      (by rw [← hnul]; congr 1; omega)
      (fun j hj => by
        obtain ⟨c, hc, hcp⟩ := h (j + 1) (by omega)
        exact ⟨c, by rw [← hc]; congr 1; omega, hcp⟩)
    exact ⟨b :: line, ⟨by simpa using hb, isPrintable_ne_nul hp, hline⟩, by simp [hlen], by simp [hp, hall]⟩

/-- While a line is pending, fetch returns a line: not empty, printable, within the capacity (R82, R142). -/
theorem PendingLine.fetch {s : State} (h : PendingLine s) :
    ∃ line, s.fetch = some line ∧ line ≠ [] ∧ line.all isPrintable = true ∧ line.length ≤ s.cfg.rxCap - 1 := by
  obtain ⟨n, hpos, hcap, hnul, hall⟩ := h
  obtain ⟨line, hline, hlen, hprint⟩ := exists_lineAt s.buf n 0 (by simpa [State.memRead] using hnul)
    (fun j hj => by simpa [State.memRead] using hall j hj)
  refine ⟨line, s.fetch_of_lineAt line hline, ?_, hprint, by omega⟩
  rintro rfl
  simp at hlen
  omega

theorem Memory.read_cellsFrom_lt (line : List Byte) (i j : Nat) (h : j < i) :
    Memory.read (cellsFrom i line) j = none := by
  induction line generalizing i with
  | nil => simp [cellsFrom, Memory.read, Nat.ne_of_lt h]
  | cons b bs ih => simp [cellsFrom, Memory.read, Nat.ne_of_lt h, ih (i + 1) (by omega)]

theorem lineAt_cons_cell (m : Memory) (line : List Byte) (j i : Nat) (b : Byte) (hj : j < i) (h : LineAt m i line) :
    LineAt ((j, b) :: m) i line := by
  induction line generalizing i with
  | nil => simpa [LineAt, Memory.read, Nat.ne_of_gt hj] using h
  | cons c cs ih =>
    exact ⟨by simpa [Memory.read, Nat.ne_of_gt hj] using h.1, h.2.1, ih (i + 1) (by omega) h.2.2⟩

theorem lineAt_cellsFrom (line : List Byte) (i : Nat) (h : ∀ b ∈ line, b ≠ 0x00) : LineAt (cellsFrom i line) i line := by
  induction line generalizing i with
  | nil => simp [LineAt, cellsFrom, Memory.read]
  | cons b bs ih =>
    refine ⟨by simp [cellsFrom, Memory.read], h b (by simp), ?_⟩
    exact lineAt_cons_cell _ bs i (i + 1) b (by omega) (ih (i + 1) fun c hc => h c (by simp [hc]))

theorem Memory.read_append (m m' : Memory) {i : Nat} {v : Byte} (h : m.read i = some v) : (m ++ m').read i = some v := by
  induction m with
  | nil => simp at h
  | cons c m ih =>
    obtain ⟨j, w⟩ := c
    simp only [List.cons_append, Memory.read] at h ⊢
    split <;> simp_all

theorem lineAt_append (m m' : Memory) (line : List Byte) (i : Nat) (h : LineAt m i line) : LineAt (m ++ m') i line := by
  induction line generalizing i with
  | nil => exact Memory.read_append m m' h
  | cons b bs ih => exact ⟨Memory.read_append m m' h.1, h.2.1, ih (i + 1) h.2.2⟩

/-- A placed line is what fetch returns. -/
theorem State.fetch_placeLine (s : State) (line : List Byte) (h : ∀ b ∈ line, b ≠ 0x00) :
    (s.placeLine line).fetch = some line :=
  State.fetch_of_lineAt _ line (lineAt_append _ _ line 0 (lineAt_cellsFrom line 0 h))

theorem indices_cellsFrom (line : List Byte) (i : Nat) :
    (cellsFrom i line).map Prod.fst = List.range' i (line.length + 1) := by
  induction line generalizing i with
  | nil => rfl
  | cons b bs ih => simp [cellsFrom, ih, List.range'_succ]

/-- Placing a line that fits keeps the buffer whole. -/
theorem Memory.whole_placeLine (m : Memory) (cap : Nat) (line : List Byte) (h : m.whole cap = true)
    (hfit : line.length < cap) : (m.placeLine line).whole cap = true := by
  have hidx := (Memory.whole_iff m cap).1 h
  have hfilter : (m.filter fun c => decide (line.length < c.1)).map Prod.fst =
      (m.map Prod.fst).filter fun i => decide (line.length < i) := by
    rw [List.filter_map]
    rfl
  have hsplit : List.range cap = List.range (line.length + 1) ++ List.range' (line.length + 1) (cap - (line.length + 1)) := by
    have happ := List.range'_append_1 (s := 0) (m := line.length + 1) (n := cap - (line.length + 1))
    rw [Nat.zero_add, Nat.add_sub_cancel' hfit] at happ
    rw [List.range_eq_range', List.range_eq_range', happ]
  rw [Memory.whole_iff, Memory.placeLine, List.map_append, indices_cellsFrom, hfilter, hidx, hsplit, List.filter_append,
    ← List.range_eq_range']
  congr 1
  rw [List.filter_eq_nil_iff.2 (by simp), List.nil_append, List.filter_eq_self.2]
  intro i hi
  have := List.mem_range'_1.1 hi
  simp
  omega

end Sys2Proof.Machine
end

