-- ==== Sys2Proof/Laws/Ops.lean ====
section
/-!
SUPPORT. What each shared operation of Machine/Ops.lean can do, said once: one lemma per field of State. A lemma about
the mailbox has the premise `ready = 1`, under which RX writes nothing (spec 20_memory.md R69, R80).
-/

namespace Sys2Proof.Machine

/-! Draws write ENV's inputs only. -/

@[simp] theorem State.drawPin_cfg (s : State) : s.drawPin.2.cfg = s.cfg := by
  unfold State.drawPin
  split <;> rfl
@[simp] theorem State.drawPin_pos (s : State) : s.drawPin.2.pos = s.pos := by
  unfold State.drawPin
  split <;> rfl
@[simp] theorem State.drawPin_homed (s : State) : s.drawPin.2.homed = s.homed := by
  unfold State.drawPin
  split <;> rfl
@[simp] theorem State.drawPin_buf (s : State) : s.drawPin.2.buf = s.buf := by
  unfold State.drawPin
  split <;> rfl
@[simp] theorem State.drawPin_cur (s : State) : s.drawPin.2.cur = s.cur := by
  unfold State.drawPin
  split <;> rfl
@[simp] theorem State.drawPin_ready (s : State) : s.drawPin.2.ready = s.ready := by
  unfold State.drawPin
  split <;> rfl
@[simp] theorem State.drawPin_stepOut (s : State) : s.drawPin.2.stepOut = s.stepOut := by
  unfold State.drawPin
  split <;> rfl
@[simp] theorem State.drawPin_dirOut (s : State) : s.drawPin.2.dirOut = s.dirOut := by
  unfold State.drawPin
  split <;> rfl
@[simp] theorem State.drawPin_mphase (s : State) : s.drawPin.2.mphase = s.mphase := by
  unfold State.drawPin
  split <;> rfl
@[simp] theorem State.drawPin_hphase (s : State) : s.drawPin.2.hphase = s.hphase := by
  unfold State.drawPin
  split <;> rfl
@[simp] theorem State.drawPin_loop (s : State) : s.drawPin.2.loop = s.loop := by
  unfold State.drawPin
  split <;> rfl
@[simp] theorem State.drawPin_susp (s : State) : s.drawPin.2.susp = s.susp := by
  unfold State.drawPin
  split <;> rfl
@[simp] theorem State.drawPin_trace (s : State) : s.drawPin.2.trace = s.trace := by
  unfold State.drawPin
  split <;> rfl

@[simp] theorem State.drawI32_cfg (s : State) : s.drawI32.2.cfg = s.cfg := by
  unfold State.drawI32
  split <;> rfl
@[simp] theorem State.drawI32_pos (s : State) : s.drawI32.2.pos = s.pos := by
  unfold State.drawI32
  split <;> rfl
@[simp] theorem State.drawI32_homed (s : State) : s.drawI32.2.homed = s.homed := by
  unfold State.drawI32
  split <;> rfl
@[simp] theorem State.drawI32_buf (s : State) : s.drawI32.2.buf = s.buf := by
  unfold State.drawI32
  split <;> rfl
@[simp] theorem State.drawI32_cur (s : State) : s.drawI32.2.cur = s.cur := by
  unfold State.drawI32
  split <;> rfl
@[simp] theorem State.drawI32_ready (s : State) : s.drawI32.2.ready = s.ready := by
  unfold State.drawI32
  split <;> rfl
@[simp] theorem State.drawI32_stepOut (s : State) : s.drawI32.2.stepOut = s.stepOut := by
  unfold State.drawI32
  split <;> rfl
@[simp] theorem State.drawI32_dirOut (s : State) : s.drawI32.2.dirOut = s.dirOut := by
  unfold State.drawI32
  split <;> rfl
@[simp] theorem State.drawI32_mphase (s : State) : s.drawI32.2.mphase = s.mphase := by
  unfold State.drawI32
  split <;> rfl
@[simp] theorem State.drawI32_hphase (s : State) : s.drawI32.2.hphase = s.hphase := by
  unfold State.drawI32
  split <;> rfl
@[simp] theorem State.drawI32_loop (s : State) : s.drawI32.2.loop = s.loop := by
  unfold State.drawI32
  split <;> rfl
@[simp] theorem State.drawI32_susp (s : State) : s.drawI32.2.susp = s.susp := by
  unfold State.drawI32
  split <;> rfl
@[simp] theorem State.drawI32_trace (s : State) : s.drawI32.2.trace = s.trace := by
  unfold State.drawI32
  split <;> rfl

@[simp] theorem State.drawBound_cfg (s : State) : s.drawBound.2.cfg = s.cfg := by
  unfold State.drawBound
  split <;> rfl
@[simp] theorem State.drawBound_pos (s : State) : s.drawBound.2.pos = s.pos := by
  unfold State.drawBound
  split <;> rfl
@[simp] theorem State.drawBound_homed (s : State) : s.drawBound.2.homed = s.homed := by
  unfold State.drawBound
  split <;> rfl
@[simp] theorem State.drawBound_buf (s : State) : s.drawBound.2.buf = s.buf := by
  unfold State.drawBound
  split <;> rfl
@[simp] theorem State.drawBound_cur (s : State) : s.drawBound.2.cur = s.cur := by
  unfold State.drawBound
  split <;> rfl
@[simp] theorem State.drawBound_ready (s : State) : s.drawBound.2.ready = s.ready := by
  unfold State.drawBound
  split <;> rfl
@[simp] theorem State.drawBound_stepOut (s : State) : s.drawBound.2.stepOut = s.stepOut := by
  unfold State.drawBound
  split <;> rfl
@[simp] theorem State.drawBound_dirOut (s : State) : s.drawBound.2.dirOut = s.dirOut := by
  unfold State.drawBound
  split <;> rfl
@[simp] theorem State.drawBound_mphase (s : State) : s.drawBound.2.mphase = s.mphase := by
  unfold State.drawBound
  split <;> rfl
@[simp] theorem State.drawBound_hphase (s : State) : s.drawBound.2.hphase = s.hphase := by
  unfold State.drawBound
  split <;> rfl
@[simp] theorem State.drawBound_loop (s : State) : s.drawBound.2.loop = s.loop := by
  unfold State.drawBound
  split <;> rfl
@[simp] theorem State.drawBound_susp (s : State) : s.drawBound.2.susp = s.susp := by
  unfold State.drawBound
  split <;> rfl
@[simp] theorem State.drawBound_trace (s : State) : s.drawBound.2.trace = s.trace := by
  unfold State.drawBound
  split <;> rfl

@[simp] theorem State.drawArrivals_cfg (s : State) : s.drawArrivals.2.cfg = s.cfg := by
  unfold State.drawArrivals
  split <;> rfl
@[simp] theorem State.drawArrivals_pos (s : State) : s.drawArrivals.2.pos = s.pos := by
  unfold State.drawArrivals
  split <;> rfl
@[simp] theorem State.drawArrivals_homed (s : State) : s.drawArrivals.2.homed = s.homed := by
  unfold State.drawArrivals
  split <;> rfl
@[simp] theorem State.drawArrivals_buf (s : State) : s.drawArrivals.2.buf = s.buf := by
  unfold State.drawArrivals
  split <;> rfl
@[simp] theorem State.drawArrivals_cur (s : State) : s.drawArrivals.2.cur = s.cur := by
  unfold State.drawArrivals
  split <;> rfl
@[simp] theorem State.drawArrivals_ready (s : State) : s.drawArrivals.2.ready = s.ready := by
  unfold State.drawArrivals
  split <;> rfl
@[simp] theorem State.drawArrivals_stepOut (s : State) : s.drawArrivals.2.stepOut = s.stepOut := by
  unfold State.drawArrivals
  split <;> rfl
@[simp] theorem State.drawArrivals_dirOut (s : State) : s.drawArrivals.2.dirOut = s.dirOut := by
  unfold State.drawArrivals
  split <;> rfl
@[simp] theorem State.drawArrivals_mphase (s : State) : s.drawArrivals.2.mphase = s.mphase := by
  unfold State.drawArrivals
  split <;> rfl
@[simp] theorem State.drawArrivals_hphase (s : State) : s.drawArrivals.2.hphase = s.hphase := by
  unfold State.drawArrivals
  split <;> rfl
@[simp] theorem State.drawArrivals_loop (s : State) : s.drawArrivals.2.loop = s.loop := by
  unfold State.drawArrivals
  split <;> rfl
@[simp] theorem State.drawArrivals_susp (s : State) : s.drawArrivals.2.susp = s.susp := by
  unfold State.drawArrivals
  split <;> rfl
@[simp] theorem State.drawArrivals_trace (s : State) : s.drawArrivals.2.trace = s.trace := by
  unfold State.drawArrivals
  split <;> rfl

@[simp] theorem State.drawArrivals_env_pins (s : State) : s.drawArrivals.2.env.pins = s.env.pins := by
  unfold State.drawArrivals
  split <;> rfl
@[simp] theorem State.drawArrivals_env_endless (s : State) : s.drawArrivals.2.env.endless = s.env.endless := by
  unfold State.drawArrivals
  split <;> rfl
@[simp] theorem State.drawArrivals_env_ints (s : State) : s.drawArrivals.2.env.ints = s.env.ints := by
  unfold State.drawArrivals
  split <;> rfl
@[simp] theorem State.drawArrivals_env_bounds (s : State) : s.drawArrivals.2.env.bounds = s.env.bounds := by
  unfold State.drawArrivals
  split <;> rfl
@[simp] theorem State.drawArrivals_env_drawnPins (s : State) : s.drawArrivals.2.env.drawnPins = s.env.drawnPins := by
  unfold State.drawArrivals
  split <;> rfl
@[simp] theorem State.drawArrivals_env_drawnInts (s : State) : s.drawArrivals.2.env.drawnInts = s.env.drawnInts := by
  unfold State.drawArrivals
  split <;> rfl
@[simp] theorem State.drawArrivals_env_drawnBounds (s : State) : s.drawArrivals.2.env.drawnBounds = s.env.drawnBounds := by
  unfold State.drawArrivals
  split <;> rfl

/-! The Frame Receiver and an RX step write only `buf`, `cur`, `ready` and the trace (R74). -/

@[simp] theorem State.memWrite_cfg (s : State) (i : Nat) (v : Byte) : (s.memWrite i v).cfg = s.cfg := by
  unfold State.memWrite
  split <;> rfl
@[simp] theorem State.memWrite_pos (s : State) (i : Nat) (v : Byte) : (s.memWrite i v).pos = s.pos := by
  unfold State.memWrite
  split <;> rfl
@[simp] theorem State.memWrite_homed (s : State) (i : Nat) (v : Byte) : (s.memWrite i v).homed = s.homed := by
  unfold State.memWrite
  split <;> rfl
@[simp] theorem State.memWrite_stepOut (s : State) (i : Nat) (v : Byte) : (s.memWrite i v).stepOut = s.stepOut := by
  unfold State.memWrite
  split <;> rfl
@[simp] theorem State.memWrite_dirOut (s : State) (i : Nat) (v : Byte) : (s.memWrite i v).dirOut = s.dirOut := by
  unfold State.memWrite
  split <;> rfl
@[simp] theorem State.memWrite_mphase (s : State) (i : Nat) (v : Byte) : (s.memWrite i v).mphase = s.mphase := by
  unfold State.memWrite
  split <;> rfl
@[simp] theorem State.memWrite_hphase (s : State) (i : Nat) (v : Byte) : (s.memWrite i v).hphase = s.hphase := by
  unfold State.memWrite
  split <;> rfl
@[simp] theorem State.memWrite_loop (s : State) (i : Nat) (v : Byte) : (s.memWrite i v).loop = s.loop := by
  unfold State.memWrite
  split <;> rfl
@[simp] theorem State.memWrite_susp (s : State) (i : Nat) (v : Byte) : (s.memWrite i v).susp = s.susp := by
  unfold State.memWrite
  split <;> rfl
@[simp] theorem State.memWrite_env (s : State) (i : Nat) (v : Byte) : (s.memWrite i v).env = s.env := by
  unfold State.memWrite
  split <;> rfl
@[simp] theorem State.memWrite_cur (s : State) (i : Nat) (v : Byte) : (s.memWrite i v).cur = s.cur := by
  unfold State.memWrite
  split <;> rfl
@[simp] theorem State.memWrite_ready (s : State) (i : Nat) (v : Byte) : (s.memWrite i v).ready = s.ready := by
  unfold State.memWrite
  split <;> rfl
@[simp] theorem State.memWrite_trace (s : State) (i : Nat) (v : Byte) : (s.memWrite i v).trace = s.trace := by
  unfold State.memWrite
  split <;> rfl
@[simp] theorem State.frameReceiver_cfg (s : State) (b : Byte) : (s.frameReceiver b).cfg = s.cfg := by
  unfold State.frameReceiver
  split_ifs <;> simp
@[simp] theorem State.frameReceiver_pos (s : State) (b : Byte) : (s.frameReceiver b).pos = s.pos := by
  unfold State.frameReceiver
  split_ifs <;> simp
@[simp] theorem State.frameReceiver_homed (s : State) (b : Byte) : (s.frameReceiver b).homed = s.homed := by
  unfold State.frameReceiver
  split_ifs <;> simp
@[simp] theorem State.frameReceiver_stepOut (s : State) (b : Byte) : (s.frameReceiver b).stepOut = s.stepOut := by
  unfold State.frameReceiver
  split_ifs <;> simp
@[simp] theorem State.frameReceiver_dirOut (s : State) (b : Byte) : (s.frameReceiver b).dirOut = s.dirOut := by
  unfold State.frameReceiver
  split_ifs <;> simp
@[simp] theorem State.frameReceiver_mphase (s : State) (b : Byte) : (s.frameReceiver b).mphase = s.mphase := by
  unfold State.frameReceiver
  split_ifs <;> simp
@[simp] theorem State.frameReceiver_hphase (s : State) (b : Byte) : (s.frameReceiver b).hphase = s.hphase := by
  unfold State.frameReceiver
  split_ifs <;> simp
@[simp] theorem State.frameReceiver_loop (s : State) (b : Byte) : (s.frameReceiver b).loop = s.loop := by
  unfold State.frameReceiver
  split_ifs <;> simp
@[simp] theorem State.frameReceiver_susp (s : State) (b : Byte) : (s.frameReceiver b).susp = s.susp := by
  unfold State.frameReceiver
  split_ifs <;> simp
@[simp] theorem State.frameReceiver_env (s : State) (b : Byte) : (s.frameReceiver b).env = s.env := by
  unfold State.frameReceiver
  split_ifs <;> simp
@[simp] theorem State.frameReceiver_trace (s : State) (b : Byte) : (s.frameReceiver b).trace = s.trace := by
  unfold State.frameReceiver
  split_ifs <;> simp

theorem State.receive_eq (s : State) (b : Byte) : s.receive b = (s.emit (.rx b)).frameReceiver b := rfl

@[simp] theorem State.receive_trace (s : State) (b : Byte) : (s.receive b).trace = s.trace ++ [.rx b] := by
  simp [State.receive_eq]

@[simp] theorem State.receive_cfg (s : State) (b : Byte) : (s.receive b).cfg = s.cfg := by
  simp [State.receive_eq]
@[simp] theorem State.receive_pos (s : State) (b : Byte) : (s.receive b).pos = s.pos := by
  simp [State.receive_eq]
@[simp] theorem State.receive_homed (s : State) (b : Byte) : (s.receive b).homed = s.homed := by
  simp [State.receive_eq]
@[simp] theorem State.receive_stepOut (s : State) (b : Byte) : (s.receive b).stepOut = s.stepOut := by
  simp [State.receive_eq]
@[simp] theorem State.receive_dirOut (s : State) (b : Byte) : (s.receive b).dirOut = s.dirOut := by
  simp [State.receive_eq]
@[simp] theorem State.receive_mphase (s : State) (b : Byte) : (s.receive b).mphase = s.mphase := by
  simp [State.receive_eq]
@[simp] theorem State.receive_hphase (s : State) (b : Byte) : (s.receive b).hphase = s.hphase := by
  simp [State.receive_eq]
@[simp] theorem State.receive_loop (s : State) (b : Byte) : (s.receive b).loop = s.loop := by
  simp [State.receive_eq]
@[simp] theorem State.receive_susp (s : State) (b : Byte) : (s.receive b).susp = s.susp := by
  simp [State.receive_eq]
@[simp] theorem State.receive_env (s : State) (b : Byte) : (s.receive b).env = s.env := by
  simp [State.receive_eq]

/-- A byte received while a line is pending only leaves its event (R69). -/
theorem State.receive_of_ready {s : State} (b : Byte) (h : s.ready = true) : s.receive b = s.emit (.rx b) := by
  simp [State.receive_eq, State.frameReceiver, h]

theorem State.foldl_receive_of_ready (bs : List Byte) {s : State} (h : s.ready = true) :
    bs.foldl State.receive s = { s with trace := s.trace ++ bs.map Event.rx } := by
  induction bs generalizing s with
  | nil => simp
  | cons b bs ih =>
    rw [List.foldl_cons, State.receive_of_ready b h, ih (by simpa using h)]
    simp [State.emit]

/-- Delivering bytes is one RX step after another, whatever `ready` is. -/
theorem State.deliver_eq_foldl (s : State) (bs : List Byte) : s.deliver bs = bs.foldl State.receive s := by
  unfold State.deliver
  split
  · rw [State.foldl_receive_of_ready bs ‹_›]
  · rfl

/-- What every RX step keeps, a delivery keeps. -/
theorem State.deliver_induction (P : State → Prop) (bs : List Byte) {s : State} (h0 : P s)
    (hstep : ∀ (s : State) (b : Byte), P s → P (s.receive b)) : P (s.deliver bs) := by
  rw [State.deliver_eq_foldl]
  induction bs generalizing s with
  | nil => exact h0
  | cons b bs ih => exact ih (hstep s b h0)

@[simp] theorem State.deliver_cfg (s : State) (bs : List Byte) : (s.deliver bs).cfg = s.cfg :=
  State.deliver_induction (fun t => t.cfg = s.cfg) bs rfl fun t b ht => by simp [ht]
@[simp] theorem State.deliver_pos (s : State) (bs : List Byte) : (s.deliver bs).pos = s.pos :=
  State.deliver_induction (fun t => t.pos = s.pos) bs rfl fun t b ht => by simp [ht]
@[simp] theorem State.deliver_homed (s : State) (bs : List Byte) : (s.deliver bs).homed = s.homed :=
  State.deliver_induction (fun t => t.homed = s.homed) bs rfl fun t b ht => by simp [ht]
@[simp] theorem State.deliver_stepOut (s : State) (bs : List Byte) : (s.deliver bs).stepOut = s.stepOut :=
  State.deliver_induction (fun t => t.stepOut = s.stepOut) bs rfl fun t b ht => by simp [ht]
@[simp] theorem State.deliver_dirOut (s : State) (bs : List Byte) : (s.deliver bs).dirOut = s.dirOut :=
  State.deliver_induction (fun t => t.dirOut = s.dirOut) bs rfl fun t b ht => by simp [ht]
@[simp] theorem State.deliver_mphase (s : State) (bs : List Byte) : (s.deliver bs).mphase = s.mphase :=
  State.deliver_induction (fun t => t.mphase = s.mphase) bs rfl fun t b ht => by simp [ht]
@[simp] theorem State.deliver_hphase (s : State) (bs : List Byte) : (s.deliver bs).hphase = s.hphase :=
  State.deliver_induction (fun t => t.hphase = s.hphase) bs rfl fun t b ht => by simp [ht]
@[simp] theorem State.deliver_loop (s : State) (bs : List Byte) : (s.deliver bs).loop = s.loop :=
  State.deliver_induction (fun t => t.loop = s.loop) bs rfl fun t b ht => by simp [ht]
@[simp] theorem State.deliver_susp (s : State) (bs : List Byte) : (s.deliver bs).susp = s.susp :=
  State.deliver_induction (fun t => t.susp = s.susp) bs rfl fun t b ht => by simp [ht]
@[simp] theorem State.deliver_env (s : State) (bs : List Byte) : (s.deliver bs).env = s.env :=
  State.deliver_induction (fun t => t.env = s.env) bs rfl fun t b ht => by simp [ht]
theorem State.deliver_buf {s : State} (bs : List Byte) (h : s.ready = true) : (s.deliver bs).buf = s.buf := by
  simp [State.deliver, h]
theorem State.deliver_cur {s : State} (bs : List Byte) (h : s.ready = true) : (s.deliver bs).cur = s.cur := by
  simp [State.deliver, h]
theorem State.deliver_ready {s : State} (bs : List Byte) (h : s.ready = true) : (s.deliver bs).ready = s.ready := by
  simp [State.deliver, h]

theorem State.deliver_trace (s : State) (bs : List Byte) : (s.deliver bs).trace = s.trace ++ bs.map Event.rx := by
  rw [State.deliver_eq_foldl]
  induction bs generalizing s with
  | nil => simp
  | cons b bs ih => simp [List.foldl_cons, ih]

/-! MAIN's share of the trace. -/

theorem filter_rx_map (bs : List Byte) : (bs.map Event.rx).filter (fun e => !e.isRx) = [] := by
  induction bs with
  | nil => rfl
  | cons b bs ih => simp [Event.isRx]

@[simp] theorem State.mainTrace_emit (s : State) (e : Event) :
    (s.emit e).mainTrace = s.mainTrace ++ if e.isRx then [] else [e] := by
  cases h : e.isRx <;> simp [State.mainTrace, h]

@[simp] theorem State.mainTrace_deliver (s : State) (bs : List Byte) : (s.deliver bs).mainTrace = s.mainTrace := by
  simp only [State.mainTrace, State.deliver_trace, List.filter_append, filter_rx_map, List.append_nil]

@[simp] theorem State.mainTrace_setPos (s : State) (a : Axis) (v : Int) : (s.setPos a v).mainTrace = s.mainTrace := rfl
@[simp] theorem State.mainTrace_setHomed (s : State) (a : Axis) (v : Bit) : (s.setHomed a v).mainTrace = s.mainTrace := rfl
@[simp] theorem State.mainTrace_setBuf (s : State) (m : Memory) : (s.setBuf m).mainTrace = s.mainTrace := rfl
@[simp] theorem State.mainTrace_setCur (s : State) (n : Nat) : (s.setCur n).mainTrace = s.mainTrace := rfl
@[simp] theorem State.mainTrace_setReady (s : State) (v : Bit) : (s.setReady v).mainTrace = s.mainTrace := rfl
@[simp] theorem State.mainTrace_setMphase (s : State) (v : MPhase) : (s.setMphase v).mainTrace = s.mainTrace := rfl
@[simp] theorem State.mainTrace_setHphase (s : State) (a : Axis) (v : HPhase) : (s.setHphase a v).mainTrace = s.mainTrace := rfl
@[simp] theorem State.mainTrace_setLoop (s : State) (r : LoopRegs) : (s.setLoop r).mainTrace = s.mainTrace := rfl
@[simp] theorem State.mainTrace_setSusp (s : State) (p : Option Suspended) : (s.setSusp p).mainTrace = s.mainTrace := rfl
@[simp] theorem State.mainTrace_setEnv (s : State) (e : Env) : (s.setEnv e).mainTrace = s.mainTrace := rfl
@[simp] theorem State.mainTrace_setLatch (s : State) (p : OutPin) (v : Bit) :
    (s.setLatch p v).mainTrace = s.mainTrace := by
  cases p <;> rfl
@[simp] theorem State.mainTrace_drawPin (s : State) : s.drawPin.2.mainTrace = s.mainTrace := by
  simp [State.mainTrace]
@[simp] theorem State.mainTrace_drawI32 (s : State) : s.drawI32.2.mainTrace = s.mainTrace := by
  simp [State.mainTrace]
@[simp] theorem State.mainTrace_drawBound (s : State) : s.drawBound.2.mainTrace = s.mainTrace := by
  simp [State.mainTrace]
@[simp] theorem State.mainTrace_drawArrivals (s : State) : s.drawArrivals.2.mainTrace = s.mainTrace := by
  simp [State.mainTrace]

/-! An action boundary. -/

@[simp] theorem State.preempt_cfg (s : State) : s.preempt.cfg = s.cfg := by simp [State.preempt]
@[simp] theorem State.preempt_pos (s : State) : s.preempt.pos = s.pos := by simp [State.preempt]
@[simp] theorem State.preempt_homed (s : State) : s.preempt.homed = s.homed := by simp [State.preempt]
@[simp] theorem State.preempt_stepOut (s : State) : s.preempt.stepOut = s.stepOut := by simp [State.preempt]
@[simp] theorem State.preempt_dirOut (s : State) : s.preempt.dirOut = s.dirOut := by simp [State.preempt]
@[simp] theorem State.preempt_mphase (s : State) : s.preempt.mphase = s.mphase := by simp [State.preempt]
@[simp] theorem State.preempt_hphase (s : State) : s.preempt.hphase = s.hphase := by simp [State.preempt]
@[simp] theorem State.preempt_loop (s : State) : s.preempt.loop = s.loop := by simp [State.preempt]
@[simp] theorem State.preempt_susp (s : State) : s.preempt.susp = s.susp := by simp [State.preempt]
@[simp] theorem State.preempt_env_pins (s : State) : s.preempt.env.pins = s.env.pins := by simp [State.preempt]
@[simp] theorem State.preempt_env_ints (s : State) : s.preempt.env.ints = s.env.ints := by simp [State.preempt]
@[simp] theorem State.preempt_env_bounds (s : State) : s.preempt.env.bounds = s.env.bounds := by simp [State.preempt]
@[simp] theorem State.preempt_env_drawnPins (s : State) : s.preempt.env.drawnPins = s.env.drawnPins := by simp [State.preempt]
@[simp] theorem State.preempt_env_drawnInts (s : State) : s.preempt.env.drawnInts = s.env.drawnInts := by simp [State.preempt]
@[simp] theorem State.preempt_env_drawnBounds (s : State) : s.preempt.env.drawnBounds = s.env.drawnBounds := by simp [State.preempt]
theorem State.preempt_buf {s : State} (h : s.ready = true) : s.preempt.buf = s.buf := by
  simp [State.preempt, State.deliver_buf _ (show s.drawArrivals.2.ready = true by simpa using h)]
theorem State.preempt_cur {s : State} (h : s.ready = true) : s.preempt.cur = s.cur := by
  simp [State.preempt, State.deliver_cur _ (show s.drawArrivals.2.ready = true by simpa using h)]
theorem State.preempt_ready {s : State} (h : s.ready = true) : s.preempt.ready = s.ready := by
  simp [State.preempt, State.deliver_ready _ (show s.drawArrivals.2.ready = true by simpa using h)]
@[simp] theorem State.mainTrace_preempt (s : State) : s.preempt.mainTrace = s.mainTrace := by simp [State.preempt]

theorem State.preempt_trace (s : State) :
    s.preempt.trace = s.trace ++ s.drawArrivals.1.map Event.rx := by
  simp [State.preempt, State.deliver_trace]

/-- With no byte to deliver and no line pending an action boundary only uses up ENV's script. -/
theorem State.preempt_of_delivered {s : State} (hr : s.ready = false) (hd : s.env.delivered) :
    s.preempt = s.setEnv { s.env with arrivals := s.env.arrivals.tail } := by
  obtain ⟨hend, hempty⟩ := hd
  cases hs : s.env.arrivals with
  | nil =>
    have hdraw : s.drawArrivals = ([], s) := by simp [State.drawArrivals, hs, hend]
    have henv : s.setEnv { s.env with arrivals := [] } = s := by rw [← hs]; rfl
    rw [State.preempt, hdraw, List.tail_nil, henv]
    simp [State.deliver, hr]
  | cons bs rest =>
    have hbs : bs = [] := hempty bs (by simp [hs])
    simp [State.preempt, State.drawArrivals, hs, State.deliver, hr, hbs]

/-! A pin answer does not depend on what RX does at the boundary before the read. -/

theorem State.drawPin_congr {s t : State} (hp : s.env.pins = t.env.pins) (hd : s.env.drawnPins = t.env.drawnPins) :
    s.drawPin.1 = t.drawPin.1 ∧ s.drawPin.2.env.pins = t.drawPin.2.env.pins ∧
    s.drawPin.2.env.drawnPins = t.drawPin.2.env.drawnPins := by
  unfold State.drawPin
  rw [hp, hd]
  split <;> simp_all

@[simp] theorem State.drawPin_ints (s : State) : s.drawPin.2.env.ints = s.env.ints := by
  unfold State.drawPin
  split <;> rfl

@[simp] theorem State.drawPin_bounds (s : State) : s.drawPin.2.env.bounds = s.env.bounds := by
  unfold State.drawPin
  split <;> rfl

@[simp] theorem State.drawPin_pins (s : State) : s.drawPin.2.env.pins = s.env.pins.tail := by
  unfold State.drawPin
  split <;> simp_all

theorem State.drawPin_of_cons {s : State} {b : Bit} {rest : List Bit} (h : s.env.pins = b :: rest) :
    s.drawPin.1 = b := by
  unfold State.drawPin
  split <;> simp_all

theorem State.drawI32_of_cons {s : State} {v : BitVec 32} {rest : List (BitVec 32)} (h : s.env.ints = v :: rest) :
    s.drawI32.1 = v := by
  unfold State.drawI32
  split <;> simp_all

theorem State.drawBound_of_cons {s : State} {n : Fin 2147483649} {rest : List (Fin 2147483649)}
    (h : s.env.bounds = n :: rest) : s.drawBound.1 = n.val := by
  unfold State.drawBound
  split <;> simp_all

theorem State.drawBound_le (s : State) : s.drawBound.1 ≤ 2147483648 := by
  unfold State.drawBound
  split
  · exact Nat.lt_succ_iff.1 (Fin.isLt _)
  · exact Nat.lt_succ_iff.1 (Fin.isLt _)

@[simp] theorem State.drawI32_pins (s : State) : s.drawI32.2.env.pins = s.env.pins := by
  unfold State.drawI32
  split <;> rfl
@[simp] theorem State.drawBound_pins (s : State) : s.drawBound.2.env.pins = s.env.pins := by
  unfold State.drawBound
  split <;> rfl
@[simp] theorem State.drawI32_drawnPins (s : State) : s.drawI32.2.env.drawnPins = s.env.drawnPins := by
  unfold State.drawI32
  split <;> rfl
@[simp] theorem State.drawBound_drawnPins (s : State) : s.drawBound.2.env.drawnPins = s.env.drawnPins := by
  unfold State.drawBound
  split <;> rfl

/-! A draw depends only on its script and its counter. -/

theorem State.drawBound_fst_congr {s t : State} (hb : s.env.bounds = t.env.bounds)
    (hd : s.env.drawnBounds = t.env.drawnBounds) : s.drawBound.1 = t.drawBound.1 := by
  unfold State.drawBound
  rw [hb, hd]
  split <;> rfl

theorem State.drawI32_fst_congr {s t : State} (hi : s.env.ints = t.env.ints)
    (hd : s.env.drawnInts = t.env.drawnInts) : s.drawI32.1 = t.drawI32.1 := by
  unfold State.drawI32
  rw [hi, hd]
  split <;> rfl

/-! The ports. -/

@[simp] theorem State.pinSet_cfg (s : State) (p : OutPin) : (s.pinSet p).cfg = s.cfg := by simp [State.pinSet]
@[simp] theorem State.pinSet_pos (s : State) (p : OutPin) : (s.pinSet p).pos = s.pos := by simp [State.pinSet]
@[simp] theorem State.pinSet_homed (s : State) (p : OutPin) : (s.pinSet p).homed = s.homed := by simp [State.pinSet]
@[simp] theorem State.pinSet_mphase (s : State) (p : OutPin) : (s.pinSet p).mphase = s.mphase := by simp [State.pinSet]
@[simp] theorem State.pinSet_hphase (s : State) (p : OutPin) : (s.pinSet p).hphase = s.hphase := by simp [State.pinSet]
@[simp] theorem State.pinSet_loop (s : State) (p : OutPin) : (s.pinSet p).loop = s.loop := by simp [State.pinSet]
@[simp] theorem State.pinSet_susp (s : State) (p : OutPin) : (s.pinSet p).susp = s.susp := by simp [State.pinSet]
@[simp] theorem State.pinSet_env_pins (s : State) (p : OutPin) : (s.pinSet p).env.pins = s.env.pins := by simp [State.pinSet]
@[simp] theorem State.pinSet_env_ints (s : State) (p : OutPin) : (s.pinSet p).env.ints = s.env.ints := by simp [State.pinSet]
@[simp] theorem State.pinSet_env_bounds (s : State) (p : OutPin) : (s.pinSet p).env.bounds = s.env.bounds := by simp [State.pinSet]
@[simp] theorem State.pinSet_env_drawnPins (s : State) (p : OutPin) : (s.pinSet p).env.drawnPins = s.env.drawnPins := by simp [State.pinSet]
@[simp] theorem State.pinSet_env_drawnInts (s : State) (p : OutPin) : (s.pinSet p).env.drawnInts = s.env.drawnInts := by simp [State.pinSet]
@[simp] theorem State.pinSet_env_drawnBounds (s : State) (p : OutPin) : (s.pinSet p).env.drawnBounds = s.env.drawnBounds := by simp [State.pinSet]
theorem State.pinSet_ready {s : State} (p : OutPin) (h : s.ready = true) : (s.pinSet p).ready = s.ready := by simp [State.pinSet, State.preempt_ready h]
theorem State.pinSet_buf {s : State} (p : OutPin) (h : s.ready = true) : (s.pinSet p).buf = s.buf := by simp [State.pinSet, State.preempt_buf h]
theorem State.pinSet_cur {s : State} (p : OutPin) (h : s.ready = true) : (s.pinSet p).cur = s.cur := by simp [State.pinSet, State.preempt_cur h]
@[simp] theorem State.mainTrace_pinSet (s : State) (p : OutPin) : (s.pinSet p).mainTrace = s.mainTrace ++ [.pinSet p] := by simp [State.pinSet, Event.isRx]

@[simp] theorem State.pinClear_cfg (s : State) (p : OutPin) : (s.pinClear p).cfg = s.cfg := by simp [State.pinClear]
@[simp] theorem State.pinClear_pos (s : State) (p : OutPin) : (s.pinClear p).pos = s.pos := by simp [State.pinClear]
@[simp] theorem State.pinClear_homed (s : State) (p : OutPin) : (s.pinClear p).homed = s.homed := by simp [State.pinClear]
@[simp] theorem State.pinClear_mphase (s : State) (p : OutPin) : (s.pinClear p).mphase = s.mphase := by simp [State.pinClear]
@[simp] theorem State.pinClear_hphase (s : State) (p : OutPin) : (s.pinClear p).hphase = s.hphase := by simp [State.pinClear]
@[simp] theorem State.pinClear_loop (s : State) (p : OutPin) : (s.pinClear p).loop = s.loop := by simp [State.pinClear]
@[simp] theorem State.pinClear_susp (s : State) (p : OutPin) : (s.pinClear p).susp = s.susp := by simp [State.pinClear]
@[simp] theorem State.pinClear_env_pins (s : State) (p : OutPin) : (s.pinClear p).env.pins = s.env.pins := by simp [State.pinClear]
@[simp] theorem State.pinClear_env_ints (s : State) (p : OutPin) : (s.pinClear p).env.ints = s.env.ints := by simp [State.pinClear]
@[simp] theorem State.pinClear_env_bounds (s : State) (p : OutPin) : (s.pinClear p).env.bounds = s.env.bounds := by simp [State.pinClear]
@[simp] theorem State.pinClear_env_drawnPins (s : State) (p : OutPin) : (s.pinClear p).env.drawnPins = s.env.drawnPins := by simp [State.pinClear]
@[simp] theorem State.pinClear_env_drawnInts (s : State) (p : OutPin) : (s.pinClear p).env.drawnInts = s.env.drawnInts := by simp [State.pinClear]
@[simp] theorem State.pinClear_env_drawnBounds (s : State) (p : OutPin) : (s.pinClear p).env.drawnBounds = s.env.drawnBounds := by simp [State.pinClear]
theorem State.pinClear_ready {s : State} (p : OutPin) (h : s.ready = true) : (s.pinClear p).ready = s.ready := by simp [State.pinClear, State.preempt_ready h]
theorem State.pinClear_buf {s : State} (p : OutPin) (h : s.ready = true) : (s.pinClear p).buf = s.buf := by simp [State.pinClear, State.preempt_buf h]
theorem State.pinClear_cur {s : State} (p : OutPin) (h : s.ready = true) : (s.pinClear p).cur = s.cur := by simp [State.pinClear, State.preempt_cur h]
@[simp] theorem State.mainTrace_pinClear (s : State) (p : OutPin) : (s.pinClear p).mainTrace = s.mainTrace ++ [.pinClear p] := by simp [State.pinClear, Event.isRx]

@[simp] theorem State.pinWrite_cfg (s : State) (p : OutPin) (v : Bit) : (s.pinWrite p v).cfg = s.cfg := by
  unfold State.pinWrite
  split <;> simp
@[simp] theorem State.pinWrite_pos (s : State) (p : OutPin) (v : Bit) : (s.pinWrite p v).pos = s.pos := by
  unfold State.pinWrite
  split <;> simp
@[simp] theorem State.pinWrite_homed (s : State) (p : OutPin) (v : Bit) : (s.pinWrite p v).homed = s.homed := by
  unfold State.pinWrite
  split <;> simp
@[simp] theorem State.pinWrite_mphase (s : State) (p : OutPin) (v : Bit) : (s.pinWrite p v).mphase = s.mphase := by
  unfold State.pinWrite
  split <;> simp
@[simp] theorem State.pinWrite_hphase (s : State) (p : OutPin) (v : Bit) : (s.pinWrite p v).hphase = s.hphase := by
  unfold State.pinWrite
  split <;> simp
@[simp] theorem State.pinWrite_loop (s : State) (p : OutPin) (v : Bit) : (s.pinWrite p v).loop = s.loop := by
  unfold State.pinWrite
  split <;> simp
@[simp] theorem State.pinWrite_susp (s : State) (p : OutPin) (v : Bit) : (s.pinWrite p v).susp = s.susp := by
  unfold State.pinWrite
  split <;> simp
@[simp] theorem State.pinWrite_env_pins (s : State) (p : OutPin) (v : Bit) : (s.pinWrite p v).env.pins = s.env.pins := by
  unfold State.pinWrite
  split <;> simp
@[simp] theorem State.pinWrite_env_ints (s : State) (p : OutPin) (v : Bit) : (s.pinWrite p v).env.ints = s.env.ints := by
  unfold State.pinWrite
  split <;> simp
@[simp] theorem State.pinWrite_env_bounds (s : State) (p : OutPin) (v : Bit) : (s.pinWrite p v).env.bounds = s.env.bounds := by
  unfold State.pinWrite
  split <;> simp
@[simp] theorem State.pinWrite_env_drawnPins (s : State) (p : OutPin) (v : Bit) : (s.pinWrite p v).env.drawnPins = s.env.drawnPins := by
  unfold State.pinWrite
  split <;> simp
@[simp] theorem State.pinWrite_env_drawnInts (s : State) (p : OutPin) (v : Bit) : (s.pinWrite p v).env.drawnInts = s.env.drawnInts := by
  unfold State.pinWrite
  split <;> simp
@[simp] theorem State.pinWrite_env_drawnBounds (s : State) (p : OutPin) (v : Bit) : (s.pinWrite p v).env.drawnBounds = s.env.drawnBounds := by
  unfold State.pinWrite
  split <;> simp
theorem State.pinWrite_ready {s : State} (p : OutPin) (v : Bit) (h : s.ready = true) : (s.pinWrite p v).ready = s.ready := by
  unfold State.pinWrite
  split <;> simp [State.pinSet_ready _ h, State.pinClear_ready _ h]
theorem State.pinWrite_buf {s : State} (p : OutPin) (v : Bit) (h : s.ready = true) : (s.pinWrite p v).buf = s.buf := by
  unfold State.pinWrite
  split <;> simp [State.pinSet_buf _ h, State.pinClear_buf _ h]
theorem State.pinWrite_cur {s : State} (p : OutPin) (v : Bit) (h : s.ready = true) : (s.pinWrite p v).cur = s.cur := by
  unfold State.pinWrite
  split <;> simp [State.pinSet_cur _ h, State.pinClear_cur _ h]
@[simp] theorem State.mainTrace_pinWrite (s : State) (p : OutPin) (v : Bit) : (s.pinWrite p v).mainTrace = s.mainTrace ++ [if v then .pinSet p else .pinClear p] := by
  cases v <;> simp [State.pinWrite]

@[simp] theorem State.txByte_cfg (s : State) (b : Byte) : (s.txByte b).cfg = s.cfg := by simp [State.txByte]
@[simp] theorem State.txByte_pos (s : State) (b : Byte) : (s.txByte b).pos = s.pos := by simp [State.txByte]
@[simp] theorem State.txByte_homed (s : State) (b : Byte) : (s.txByte b).homed = s.homed := by simp [State.txByte]
@[simp] theorem State.txByte_stepOut (s : State) (b : Byte) : (s.txByte b).stepOut = s.stepOut := by simp [State.txByte]
@[simp] theorem State.txByte_dirOut (s : State) (b : Byte) : (s.txByte b).dirOut = s.dirOut := by simp [State.txByte]
@[simp] theorem State.txByte_mphase (s : State) (b : Byte) : (s.txByte b).mphase = s.mphase := by simp [State.txByte]
@[simp] theorem State.txByte_hphase (s : State) (b : Byte) : (s.txByte b).hphase = s.hphase := by simp [State.txByte]
@[simp] theorem State.txByte_loop (s : State) (b : Byte) : (s.txByte b).loop = s.loop := by simp [State.txByte]
@[simp] theorem State.txByte_susp (s : State) (b : Byte) : (s.txByte b).susp = s.susp := by simp [State.txByte]
@[simp] theorem State.txByte_env_pins (s : State) (b : Byte) : (s.txByte b).env.pins = s.env.pins := by simp [State.txByte]
@[simp] theorem State.txByte_env_ints (s : State) (b : Byte) : (s.txByte b).env.ints = s.env.ints := by simp [State.txByte]
@[simp] theorem State.txByte_env_bounds (s : State) (b : Byte) : (s.txByte b).env.bounds = s.env.bounds := by simp [State.txByte]
@[simp] theorem State.txByte_env_drawnPins (s : State) (b : Byte) : (s.txByte b).env.drawnPins = s.env.drawnPins := by simp [State.txByte]
@[simp] theorem State.txByte_env_drawnInts (s : State) (b : Byte) : (s.txByte b).env.drawnInts = s.env.drawnInts := by simp [State.txByte]
@[simp] theorem State.txByte_env_drawnBounds (s : State) (b : Byte) : (s.txByte b).env.drawnBounds = s.env.drawnBounds := by simp [State.txByte]
theorem State.txByte_ready {s : State} (b : Byte) (h : s.ready = true) : (s.txByte b).ready = s.ready := by simp [State.txByte, State.preempt_ready h]
theorem State.txByte_buf {s : State} (b : Byte) (h : s.ready = true) : (s.txByte b).buf = s.buf := by simp [State.txByte, State.preempt_buf h]
theorem State.txByte_cur {s : State} (b : Byte) (h : s.ready = true) : (s.txByte b).cur = s.cur := by simp [State.txByte, State.preempt_cur h]
@[simp] theorem State.mainTrace_txByte (s : State) (b : Byte) : (s.txByte b).mainTrace = s.mainTrace ++ [.tx b] := by simp [State.txByte, Event.isRx]

@[simp] theorem State.txBytes_cfg (s : State) (bs : List Byte) : (s.txBytes bs).cfg = s.cfg := by
  unfold State.txBytes
  induction bs generalizing s with
  | nil => rfl
  | cons b bs ih => simp [ih]
@[simp] theorem State.txBytes_pos (s : State) (bs : List Byte) : (s.txBytes bs).pos = s.pos := by
  unfold State.txBytes
  induction bs generalizing s with
  | nil => rfl
  | cons b bs ih => simp [ih]
@[simp] theorem State.txBytes_homed (s : State) (bs : List Byte) : (s.txBytes bs).homed = s.homed := by
  unfold State.txBytes
  induction bs generalizing s with
  | nil => rfl
  | cons b bs ih => simp [ih]
@[simp] theorem State.txBytes_stepOut (s : State) (bs : List Byte) : (s.txBytes bs).stepOut = s.stepOut := by
  unfold State.txBytes
  induction bs generalizing s with
  | nil => rfl
  | cons b bs ih => simp [ih]
@[simp] theorem State.txBytes_dirOut (s : State) (bs : List Byte) : (s.txBytes bs).dirOut = s.dirOut := by
  unfold State.txBytes
  induction bs generalizing s with
  | nil => rfl
  | cons b bs ih => simp [ih]
@[simp] theorem State.txBytes_mphase (s : State) (bs : List Byte) : (s.txBytes bs).mphase = s.mphase := by
  unfold State.txBytes
  induction bs generalizing s with
  | nil => rfl
  | cons b bs ih => simp [ih]
@[simp] theorem State.txBytes_hphase (s : State) (bs : List Byte) : (s.txBytes bs).hphase = s.hphase := by
  unfold State.txBytes
  induction bs generalizing s with
  | nil => rfl
  | cons b bs ih => simp [ih]
@[simp] theorem State.txBytes_loop (s : State) (bs : List Byte) : (s.txBytes bs).loop = s.loop := by
  unfold State.txBytes
  induction bs generalizing s with
  | nil => rfl
  | cons b bs ih => simp [ih]
@[simp] theorem State.txBytes_susp (s : State) (bs : List Byte) : (s.txBytes bs).susp = s.susp := by
  unfold State.txBytes
  induction bs generalizing s with
  | nil => rfl
  | cons b bs ih => simp [ih]
@[simp] theorem State.txBytes_env_pins (s : State) (bs : List Byte) : (s.txBytes bs).env.pins = s.env.pins := by
  unfold State.txBytes
  induction bs generalizing s with
  | nil => rfl
  | cons b bs ih => simp [ih]
@[simp] theorem State.txBytes_env_ints (s : State) (bs : List Byte) : (s.txBytes bs).env.ints = s.env.ints := by
  unfold State.txBytes
  induction bs generalizing s with
  | nil => rfl
  | cons b bs ih => simp [ih]
@[simp] theorem State.txBytes_env_bounds (s : State) (bs : List Byte) : (s.txBytes bs).env.bounds = s.env.bounds := by
  unfold State.txBytes
  induction bs generalizing s with
  | nil => rfl
  | cons b bs ih => simp [ih]
@[simp] theorem State.txBytes_env_drawnPins (s : State) (bs : List Byte) : (s.txBytes bs).env.drawnPins = s.env.drawnPins := by
  unfold State.txBytes
  induction bs generalizing s with
  | nil => rfl
  | cons b bs ih => simp [ih]
@[simp] theorem State.txBytes_env_drawnInts (s : State) (bs : List Byte) : (s.txBytes bs).env.drawnInts = s.env.drawnInts := by
  unfold State.txBytes
  induction bs generalizing s with
  | nil => rfl
  | cons b bs ih => simp [ih]
@[simp] theorem State.txBytes_env_drawnBounds (s : State) (bs : List Byte) : (s.txBytes bs).env.drawnBounds = s.env.drawnBounds := by
  unfold State.txBytes
  induction bs generalizing s with
  | nil => rfl
  | cons b bs ih => simp [ih]
theorem State.txBytes_ready {s : State} (bs : List Byte) (h : s.ready = true) : (s.txBytes bs).ready = s.ready := by
  unfold State.txBytes
  induction bs generalizing s with
  | nil => rfl
  | cons b bs ih => rw [List.foldl_cons, ih (by rw [State.txByte_ready _ h, h]), State.txByte_ready _ h]
theorem State.txBytes_buf {s : State} (bs : List Byte) (h : s.ready = true) : (s.txBytes bs).buf = s.buf := by
  unfold State.txBytes
  induction bs generalizing s with
  | nil => rfl
  | cons b bs ih => rw [List.foldl_cons, ih (by rw [State.txByte_ready _ h, h]), State.txByte_buf _ h]
theorem State.txBytes_cur {s : State} (bs : List Byte) (h : s.ready = true) : (s.txBytes bs).cur = s.cur := by
  unfold State.txBytes
  induction bs generalizing s with
  | nil => rfl
  | cons b bs ih => rw [List.foldl_cons, ih (by rw [State.txByte_ready _ h, h]), State.txByte_cur _ h]
@[simp] theorem State.mainTrace_txBytes (s : State) (bs : List Byte) : (s.txBytes bs).mainTrace = s.mainTrace ++ bs.map Event.tx := by
  unfold State.txBytes
  induction bs generalizing s with
  | nil => simp
  | cons b bs ih => simp [ih]

@[simp] theorem State.txLine_cfg (s : State) (t : List Byte) : (s.txLine t).cfg = s.cfg := by simp [State.txLine]
@[simp] theorem State.txLine_pos (s : State) (t : List Byte) : (s.txLine t).pos = s.pos := by simp [State.txLine]
@[simp] theorem State.txLine_homed (s : State) (t : List Byte) : (s.txLine t).homed = s.homed := by simp [State.txLine]
@[simp] theorem State.txLine_stepOut (s : State) (t : List Byte) : (s.txLine t).stepOut = s.stepOut := by simp [State.txLine]
@[simp] theorem State.txLine_dirOut (s : State) (t : List Byte) : (s.txLine t).dirOut = s.dirOut := by simp [State.txLine]
@[simp] theorem State.txLine_mphase (s : State) (t : List Byte) : (s.txLine t).mphase = s.mphase := by simp [State.txLine]
@[simp] theorem State.txLine_hphase (s : State) (t : List Byte) : (s.txLine t).hphase = s.hphase := by simp [State.txLine]
@[simp] theorem State.txLine_loop (s : State) (t : List Byte) : (s.txLine t).loop = s.loop := by simp [State.txLine]
@[simp] theorem State.txLine_susp (s : State) (t : List Byte) : (s.txLine t).susp = s.susp := by simp [State.txLine]
@[simp] theorem State.txLine_env_pins (s : State) (t : List Byte) : (s.txLine t).env.pins = s.env.pins := by simp [State.txLine]
@[simp] theorem State.txLine_env_ints (s : State) (t : List Byte) : (s.txLine t).env.ints = s.env.ints := by simp [State.txLine]
@[simp] theorem State.txLine_env_bounds (s : State) (t : List Byte) : (s.txLine t).env.bounds = s.env.bounds := by simp [State.txLine]
@[simp] theorem State.txLine_env_drawnPins (s : State) (t : List Byte) : (s.txLine t).env.drawnPins = s.env.drawnPins := by simp [State.txLine]
@[simp] theorem State.txLine_env_drawnInts (s : State) (t : List Byte) : (s.txLine t).env.drawnInts = s.env.drawnInts := by simp [State.txLine]
@[simp] theorem State.txLine_env_drawnBounds (s : State) (t : List Byte) : (s.txLine t).env.drawnBounds = s.env.drawnBounds := by simp [State.txLine]
theorem State.txLine_ready {s : State} (t : List Byte) (h : s.ready = true) : (s.txLine t).ready = s.ready := State.txBytes_ready _ h
theorem State.txLine_buf {s : State} (t : List Byte) (h : s.ready = true) : (s.txLine t).buf = s.buf := State.txBytes_buf _ h
theorem State.txLine_cur {s : State} (t : List Byte) (h : s.ready = true) : (s.txLine t).cur = s.cur := State.txBytes_cur _ h
@[simp] theorem State.mainTrace_txLine (s : State) (t : List Byte) : (s.txLine t).mainTrace = s.mainTrace ++ lineEvents s.cfg t := by simp [State.txLine, lineEvents]

@[simp] theorem State.delay_cfg (s : State) (d : Duration) : (s.delay d).cfg = s.cfg := by simp [State.delay]
@[simp] theorem State.delay_pos (s : State) (d : Duration) : (s.delay d).pos = s.pos := by simp [State.delay]
@[simp] theorem State.delay_homed (s : State) (d : Duration) : (s.delay d).homed = s.homed := by simp [State.delay]
@[simp] theorem State.delay_stepOut (s : State) (d : Duration) : (s.delay d).stepOut = s.stepOut := by simp [State.delay]
@[simp] theorem State.delay_dirOut (s : State) (d : Duration) : (s.delay d).dirOut = s.dirOut := by simp [State.delay]
@[simp] theorem State.delay_mphase (s : State) (d : Duration) : (s.delay d).mphase = s.mphase := by simp [State.delay]
@[simp] theorem State.delay_hphase (s : State) (d : Duration) : (s.delay d).hphase = s.hphase := by simp [State.delay]
@[simp] theorem State.delay_loop (s : State) (d : Duration) : (s.delay d).loop = s.loop := by simp [State.delay]
@[simp] theorem State.delay_susp (s : State) (d : Duration) : (s.delay d).susp = s.susp := by simp [State.delay]
@[simp] theorem State.delay_env_pins (s : State) (d : Duration) : (s.delay d).env.pins = s.env.pins := by simp [State.delay]
@[simp] theorem State.delay_env_ints (s : State) (d : Duration) : (s.delay d).env.ints = s.env.ints := by simp [State.delay]
@[simp] theorem State.delay_env_bounds (s : State) (d : Duration) : (s.delay d).env.bounds = s.env.bounds := by simp [State.delay]
@[simp] theorem State.delay_env_drawnPins (s : State) (d : Duration) : (s.delay d).env.drawnPins = s.env.drawnPins := by simp [State.delay]
@[simp] theorem State.delay_env_drawnInts (s : State) (d : Duration) : (s.delay d).env.drawnInts = s.env.drawnInts := by simp [State.delay]
@[simp] theorem State.delay_env_drawnBounds (s : State) (d : Duration) : (s.delay d).env.drawnBounds = s.env.drawnBounds := by simp [State.delay]
theorem State.delay_ready {s : State} (d : Duration) (h : s.ready = true) : (s.delay d).ready = s.ready := by simp [State.delay, State.preempt_ready h]
theorem State.delay_buf {s : State} (d : Duration) (h : s.ready = true) : (s.delay d).buf = s.buf := by simp [State.delay, State.preempt_buf h]
theorem State.delay_cur {s : State} (d : Duration) (h : s.ready = true) : (s.delay d).cur = s.cur := by simp [State.delay, State.preempt_cur h]
@[simp] theorem State.mainTrace_delay (s : State) (d : Duration) : (s.delay d).mainTrace = s.mainTrace ++ [.delay d] := by simp [State.delay, Event.isRx]


@[simp] theorem State.pinSet_step_stepOut (s : State) (a : Axis) : (s.pinSet (.step a)).stepOut = s.stepOut.set a true := by
  simp [State.pinSet]
@[simp] theorem State.pinSet_step_dirOut (s : State) (a : Axis) : (s.pinSet (.step a)).dirOut = s.dirOut := by
  simp [State.pinSet]
@[simp] theorem State.pinSet_dir_stepOut (s : State) (a : Axis) : (s.pinSet (.dir a)).stepOut = s.stepOut := by
  simp [State.pinSet]
@[simp] theorem State.pinSet_dir_dirOut (s : State) (a : Axis) : (s.pinSet (.dir a)).dirOut = s.dirOut.set a true := by
  simp [State.pinSet]
@[simp] theorem State.pinClear_step_stepOut (s : State) (a : Axis) :
    (s.pinClear (.step a)).stepOut = s.stepOut.set a false := by
  simp [State.pinClear]
@[simp] theorem State.pinClear_step_dirOut (s : State) (a : Axis) : (s.pinClear (.step a)).dirOut = s.dirOut := by
  simp [State.pinClear]
@[simp] theorem State.pinClear_dir_stepOut (s : State) (a : Axis) : (s.pinClear (.dir a)).stepOut = s.stepOut := by
  simp [State.pinClear]
@[simp] theorem State.pinClear_dir_dirOut (s : State) (a : Axis) :
    (s.pinClear (.dir a)).dirOut = s.dirOut.set a false := by
  simp [State.pinClear]
@[simp] theorem State.pinWrite_dir_stepOut (s : State) (a : Axis) (v : Bit) :
    (s.pinWrite (.dir a) v).stepOut = s.stepOut := by
  cases v <;> simp [State.pinWrite]
@[simp] theorem State.pinWrite_dir_dirOut (s : State) (a : Axis) (v : Bit) :
    (s.pinWrite (.dir a) v).dirOut = s.dirOut.set a v := by
  cases v <;> simp [State.pinWrite]

/-! PinRead. -/

@[simp] theorem State.pinRead_fst (s : State) (p : InPin) : (s.pinRead p).1 = s.drawPin.1 :=
  (State.drawPin_congr (State.preempt_env_pins s) (State.preempt_env_drawnPins s)).1

@[simp] theorem State.pinRead_cfg (s : State) (p : InPin) : (s.pinRead p).2.cfg = s.cfg := by simp [State.pinRead]
@[simp] theorem State.pinRead_pos (s : State) (p : InPin) : (s.pinRead p).2.pos = s.pos := by simp [State.pinRead]
@[simp] theorem State.pinRead_homed (s : State) (p : InPin) : (s.pinRead p).2.homed = s.homed := by simp [State.pinRead]
@[simp] theorem State.pinRead_stepOut (s : State) (p : InPin) : (s.pinRead p).2.stepOut = s.stepOut := by simp [State.pinRead]
@[simp] theorem State.pinRead_dirOut (s : State) (p : InPin) : (s.pinRead p).2.dirOut = s.dirOut := by simp [State.pinRead]
@[simp] theorem State.pinRead_mphase (s : State) (p : InPin) : (s.pinRead p).2.mphase = s.mphase := by simp [State.pinRead]
@[simp] theorem State.pinRead_hphase (s : State) (p : InPin) : (s.pinRead p).2.hphase = s.hphase := by simp [State.pinRead]
@[simp] theorem State.pinRead_loop (s : State) (p : InPin) : (s.pinRead p).2.loop = s.loop := by simp [State.pinRead]
@[simp] theorem State.pinRead_susp (s : State) (p : InPin) : (s.pinRead p).2.susp = s.susp := by simp [State.pinRead]
theorem State.pinRead_ready {s : State} (p : InPin) (h : s.ready = true) : (s.pinRead p).2.ready = s.ready := by
  simp [State.pinRead, State.preempt_ready h]
theorem State.pinRead_buf {s : State} (p : InPin) (h : s.ready = true) : (s.pinRead p).2.buf = s.buf := by
  simp [State.pinRead, State.preempt_buf h]
theorem State.pinRead_cur {s : State} (p : InPin) (h : s.ready = true) : (s.pinRead p).2.cur = s.cur := by
  simp [State.pinRead, State.preempt_cur h]
@[simp] theorem State.pinRead_env_pins (s : State) (p : InPin) : (s.pinRead p).2.env.pins = s.env.pins.tail := by
  simp [State.pinRead]
@[simp] theorem State.pinRead_env_ints (s : State) (p : InPin) : (s.pinRead p).2.env.ints = s.env.ints := by
  simp [State.pinRead]
@[simp] theorem State.pinRead_env_bounds (s : State) (p : InPin) : (s.pinRead p).2.env.bounds = s.env.bounds := by
  simp [State.pinRead]
@[simp] theorem State.mainTrace_pinRead (s : State) (p : InPin) :
    (s.pinRead p).2.mainTrace = s.mainTrace ++ [.pinRead p s.drawPin.1] := by
  have h := (State.drawPin_congr (State.preempt_env_pins s) (State.preempt_env_drawnPins s)).1
  simp [State.pinRead, Event.isRx, h]

@[simp] theorem State.pulse_cfg (s : State) (a : Axis) : (s.pulse a).cfg = s.cfg := by simp [State.pulse]
@[simp] theorem State.pulse_pos (s : State) (a : Axis) : (s.pulse a).pos = s.pos := by simp [State.pulse]
@[simp] theorem State.pulse_homed (s : State) (a : Axis) : (s.pulse a).homed = s.homed := by simp [State.pulse]
@[simp] theorem State.pulse_mphase (s : State) (a : Axis) : (s.pulse a).mphase = s.mphase := by simp [State.pulse]
@[simp] theorem State.pulse_hphase (s : State) (a : Axis) : (s.pulse a).hphase = s.hphase := by simp [State.pulse]
@[simp] theorem State.pulse_loop (s : State) (a : Axis) : (s.pulse a).loop = s.loop := by simp [State.pulse]
@[simp] theorem State.pulse_susp (s : State) (a : Axis) : (s.pulse a).susp = s.susp := by simp [State.pulse]
@[simp] theorem State.pulse_env_pins (s : State) (a : Axis) : (s.pulse a).env.pins = s.env.pins := by simp [State.pulse]
@[simp] theorem State.pulse_env_ints (s : State) (a : Axis) : (s.pulse a).env.ints = s.env.ints := by simp [State.pulse]
@[simp] theorem State.pulse_env_bounds (s : State) (a : Axis) : (s.pulse a).env.bounds = s.env.bounds := by simp [State.pulse]
@[simp] theorem State.pulse_env_drawnPins (s : State) (a : Axis) : (s.pulse a).env.drawnPins = s.env.drawnPins := by simp [State.pulse]
@[simp] theorem State.pulse_env_drawnInts (s : State) (a : Axis) : (s.pulse a).env.drawnInts = s.env.drawnInts := by simp [State.pulse]
@[simp] theorem State.pulse_env_drawnBounds (s : State) (a : Axis) : (s.pulse a).env.drawnBounds = s.env.drawnBounds := by simp [State.pulse]
theorem State.pulse_ready {s : State} (a : Axis) (h : s.ready = true) : (s.pulse a).ready = s.ready := by
  have h1 : (s.pinSet (.step a)).ready = true := by rw [State.pinSet_ready _ h, h]
  have h2 : ((s.pinSet (.step a)).delay .tStep).ready = true := by rw [State.delay_ready _ h1, h1]
  have h3 : (((s.pinSet (.step a)).delay .tStep).pinClear (.step a)).ready = true := by
    rw [State.pinClear_ready _ h2, h2]
  rw [State.pulse, State.delay_ready _ h3, State.pinClear_ready _ h2, State.delay_ready _ h1, State.pinSet_ready _ h]
theorem State.pulse_buf {s : State} (a : Axis) (h : s.ready = true) : (s.pulse a).buf = s.buf := by
  have h1 : (s.pinSet (.step a)).ready = true := by rw [State.pinSet_ready _ h, h]
  have h2 : ((s.pinSet (.step a)).delay .tStep).ready = true := by rw [State.delay_ready _ h1, h1]
  have h3 : (((s.pinSet (.step a)).delay .tStep).pinClear (.step a)).ready = true := by
    rw [State.pinClear_ready _ h2, h2]
  rw [State.pulse, State.delay_buf _ h3, State.pinClear_buf _ h2, State.delay_buf _ h1, State.pinSet_buf _ h]
theorem State.pulse_cur {s : State} (a : Axis) (h : s.ready = true) : (s.pulse a).cur = s.cur := by
  have h1 : (s.pinSet (.step a)).ready = true := by rw [State.pinSet_ready _ h, h]
  have h2 : ((s.pinSet (.step a)).delay .tStep).ready = true := by rw [State.delay_ready _ h1, h1]
  have h3 : (((s.pinSet (.step a)).delay .tStep).pinClear (.step a)).ready = true := by
    rw [State.pinClear_ready _ h2, h2]
  rw [State.pulse, State.delay_cur _ h3, State.pinClear_cur _ h2, State.delay_cur _ h1, State.pinSet_cur _ h]
@[simp] theorem State.pulse_stepOut (s : State) (a : Axis) : (s.pulse a).stepOut = s.stepOut.set a false := by
  cases a <;> simp [State.pulse, PerAxis.set]
@[simp] theorem State.pulse_dirOut (s : State) (a : Axis) : (s.pulse a).dirOut = s.dirOut := by simp [State.pulse]
@[simp] theorem State.mainTrace_pulse (s : State) (a : Axis) : (s.pulse a).mainTrace = s.mainTrace ++ pulseEvents a := by
  simp [State.pulse, pulseEvents]

@[simp] theorem State.setDir_cfg (s : State) (a : Axis) (d : Dir) : (s.setDir a d).cfg = s.cfg := by simp [State.setDir]
@[simp] theorem State.setDir_pos (s : State) (a : Axis) (d : Dir) : (s.setDir a d).pos = s.pos := by simp [State.setDir]
@[simp] theorem State.setDir_homed (s : State) (a : Axis) (d : Dir) : (s.setDir a d).homed = s.homed := by simp [State.setDir]
@[simp] theorem State.setDir_mphase (s : State) (a : Axis) (d : Dir) : (s.setDir a d).mphase = s.mphase := by simp [State.setDir]
@[simp] theorem State.setDir_hphase (s : State) (a : Axis) (d : Dir) : (s.setDir a d).hphase = s.hphase := by simp [State.setDir]
@[simp] theorem State.setDir_loop (s : State) (a : Axis) (d : Dir) : (s.setDir a d).loop = s.loop := by simp [State.setDir]
@[simp] theorem State.setDir_susp (s : State) (a : Axis) (d : Dir) : (s.setDir a d).susp = s.susp := by simp [State.setDir]
@[simp] theorem State.setDir_env_pins (s : State) (a : Axis) (d : Dir) : (s.setDir a d).env.pins = s.env.pins := by simp [State.setDir]
@[simp] theorem State.setDir_env_ints (s : State) (a : Axis) (d : Dir) : (s.setDir a d).env.ints = s.env.ints := by simp [State.setDir]
@[simp] theorem State.setDir_env_bounds (s : State) (a : Axis) (d : Dir) : (s.setDir a d).env.bounds = s.env.bounds := by simp [State.setDir]
@[simp] theorem State.setDir_env_drawnPins (s : State) (a : Axis) (d : Dir) : (s.setDir a d).env.drawnPins = s.env.drawnPins := by simp [State.setDir]
@[simp] theorem State.setDir_env_drawnInts (s : State) (a : Axis) (d : Dir) : (s.setDir a d).env.drawnInts = s.env.drawnInts := by simp [State.setDir]
@[simp] theorem State.setDir_env_drawnBounds (s : State) (a : Axis) (d : Dir) : (s.setDir a d).env.drawnBounds = s.env.drawnBounds := by simp [State.setDir]
theorem State.setDir_ready {s : State} (a : Axis) (d : Dir) (h : s.ready = true) : (s.setDir a d).ready = s.ready := by
  rw [State.setDir, State.delay_ready _ (by rw [State.pinWrite_ready _ _ h, h]), State.pinWrite_ready _ _ h]
theorem State.setDir_buf {s : State} (a : Axis) (d : Dir) (h : s.ready = true) : (s.setDir a d).buf = s.buf := by
  rw [State.setDir, State.delay_buf _ (by rw [State.pinWrite_ready _ _ h, h]), State.pinWrite_buf _ _ h]
theorem State.setDir_cur {s : State} (a : Axis) (d : Dir) (h : s.ready = true) : (s.setDir a d).cur = s.cur := by
  rw [State.setDir, State.delay_cur _ (by rw [State.pinWrite_ready _ _ h, h]), State.pinWrite_cur _ _ h]
@[simp] theorem State.setDir_stepOut (s : State) (a : Axis) (d : Dir) : (s.setDir a d).stepOut = s.stepOut := by
  simp [State.setDir]
@[simp] theorem State.setDir_dirOut (s : State) (a : Axis) (d : Dir) :
    (s.setDir a d).dirOut = s.dirOut.set a (dirLevel (s.cfg.polarity.get a) d) := by
  simp [State.setDir]
@[simp] theorem State.mainTrace_setDir (s : State) (a : Axis) (d : Dir) : (s.setDir a d).mainTrace = s.mainTrace ++ dirEvents s.cfg a d := by
  simp [State.setDir, dirEvents]

@[simp] theorem State.report_cfg (s : State) (e : ReportedError) : (s.report e).cfg = s.cfg := by simp [State.report]
@[simp] theorem State.report_pos (s : State) (e : ReportedError) : (s.report e).pos = s.pos := by simp [State.report]
@[simp] theorem State.report_homed (s : State) (e : ReportedError) : (s.report e).homed = s.homed := by simp [State.report]
@[simp] theorem State.report_stepOut (s : State) (e : ReportedError) : (s.report e).stepOut = s.stepOut := by simp [State.report]
@[simp] theorem State.report_dirOut (s : State) (e : ReportedError) : (s.report e).dirOut = s.dirOut := by simp [State.report]
@[simp] theorem State.report_mphase (s : State) (e : ReportedError) : (s.report e).mphase = s.mphase := by simp [State.report]
@[simp] theorem State.report_hphase (s : State) (e : ReportedError) : (s.report e).hphase = s.hphase := by simp [State.report]
@[simp] theorem State.report_loop (s : State) (e : ReportedError) : (s.report e).loop = s.loop := by simp [State.report]
@[simp] theorem State.report_susp (s : State) (e : ReportedError) : (s.report e).susp = s.susp := by simp [State.report]
@[simp] theorem State.report_env_pins (s : State) (e : ReportedError) : (s.report e).env.pins = s.env.pins := by simp [State.report]
@[simp] theorem State.report_env_ints (s : State) (e : ReportedError) : (s.report e).env.ints = s.env.ints := by simp [State.report]
@[simp] theorem State.report_env_bounds (s : State) (e : ReportedError) : (s.report e).env.bounds = s.env.bounds := by simp [State.report]
@[simp] theorem State.report_env_drawnPins (s : State) (e : ReportedError) : (s.report e).env.drawnPins = s.env.drawnPins := by simp [State.report]
@[simp] theorem State.report_env_drawnInts (s : State) (e : ReportedError) : (s.report e).env.drawnInts = s.env.drawnInts := by simp [State.report]
@[simp] theorem State.report_env_drawnBounds (s : State) (e : ReportedError) : (s.report e).env.drawnBounds = s.env.drawnBounds := by simp [State.report]
theorem State.report_ready {s : State} (e : ReportedError) (h : s.ready = true) : (s.report e).ready = s.ready := State.txLine_ready _ h
theorem State.report_buf {s : State} (e : ReportedError) (h : s.ready = true) : (s.report e).buf = s.buf := State.txLine_buf _ h
theorem State.report_cur {s : State} (e : ReportedError) (h : s.ready = true) : (s.report e).cur = s.cur := State.txLine_cur _ h
@[simp] theorem State.mainTrace_report (s : State) (e : ReportedError) : (s.report e).mainTrace = s.mainTrace ++ lineEvents s.cfg (errorLine e) := by
  simp [State.report]


end Sys2Proof.Machine
end

