-- ==== Sys2Proof/Laws/Answers.lean ====
section
/-!
SUPPORT. The sequence of ENV's coming pin answers, and what each operation does to it: a pin read takes the first, no
other port operation takes any.
-/

namespace Sys2Proof.Machine

theorem State.answer_congr {s t : State} (hp : s.env.pins = t.env.pins) (hd : s.env.drawnPins = t.env.drawnPins) (i : Nat) :
    s.answer i = t.answer i := by
  simp only [State.answer, hp, hd]

theorem State.drawPin_fst_eq_answer (s : State) : s.drawPin.1 = s.answer 0 := by
  unfold State.drawPin State.answer
  split <;> simp_all

theorem State.drawPin_answer (s : State) (i : Nat) : s.drawPin.2.answer i = s.answer (i + 1) := by
  unfold State.drawPin
  cases h : s.env.pins with
  | nil =>
    simp only [State.answer, h, State.setEnv_env, List.getElem?_nil, List.length_nil]
    congr 1
    omega
  | cons b rest =>
    simp only [State.answer, h, State.setEnv_env, List.getElem?_cons_succ, List.length_cons]
    split
    · rfl
    · congr 2
      omega

theorem State.answer_of_cons {s : State} {b : Bit} {rest : List Bit} (h : s.env.pins = b :: rest) : s.answer 0 = b := by
  simp [State.answer, h]

@[simp] theorem State.preempt_answer (s : State) (i : Nat) : s.preempt.answer i = s.answer i :=
  State.answer_congr (by simp) (by simp) i

@[simp] theorem State.emit_answer (s : State) (e : Event) (i : Nat) : (s.emit e).answer i = s.answer i := rfl
@[simp] theorem State.setLoop_answer (s : State) (r : LoopRegs) (i : Nat) : (s.setLoop r).answer i = s.answer i := rfl
@[simp] theorem State.setPos_answer (s : State) (a : Axis) (v : Int) (i : Nat) :
    (s.setPos a v).answer i = s.answer i := rfl
@[simp] theorem State.setHomed_answer (s : State) (a : Axis) (v : Bit) (i : Nat) :
    (s.setHomed a v).answer i = s.answer i := rfl
@[simp] theorem State.setHphase_answer (s : State) (a : Axis) (v : HPhase) (i : Nat) :
    (s.setHphase a v).answer i = s.answer i := rfl
@[simp] theorem State.setSusp_answer (s : State) (p : Option Suspended) (i : Nat) :
    (s.setSusp p).answer i = s.answer i := rfl
@[simp] theorem State.setMphase_answer (s : State) (v : MPhase) (i : Nat) :
    (s.setMphase v).answer i = s.answer i := rfl

@[simp] theorem State.pinRead_answer (s : State) (p : InPin) (i : Nat) :
    (s.pinRead p).2.answer i = s.answer (i + 1) := by
  simp [State.pinRead, State.drawPin_answer]

@[simp] theorem State.drawPin_fst (s : State) : s.drawPin.1 = s.answer 0 := s.drawPin_fst_eq_answer

@[simp] theorem State.pulse_answer (s : State) (a : Axis) (i : Nat) : (s.pulse a).answer i = s.answer i :=
  State.answer_congr (by simp) (by simp) i
@[simp] theorem State.setDir_answer (s : State) (a : Axis) (d : Dir) (i : Nat) :
    (s.setDir a d).answer i = s.answer i :=
  State.answer_congr (by simp) (by simp) i
@[simp] theorem State.delay_answer (s : State) (d : Duration) (i : Nat) : (s.delay d).answer i = s.answer i :=
  State.answer_congr (by simp) (by simp) i
@[simp] theorem State.txLine_answer (s : State) (t : List Byte) (i : Nat) : (s.txLine t).answer i = s.answer i :=
  State.answer_congr (by simp) (by simp) i
@[simp] theorem State.report_answer (s : State) (e : ReportedError) (i : Nat) : (s.report e).answer i = s.answer i :=
  State.answer_congr (by simp) (by simp) i
@[simp] theorem State.drawI32_answer (s : State) (i : Nat) : s.drawI32.2.answer i = s.answer i :=
  State.answer_congr (by simp) (by simp) i
@[simp] theorem State.drawBound_answer (s : State) (i : Nat) : s.drawBound.2.answer i = s.answer i :=
  State.answer_congr (by simp) (by simp) i
@[simp] theorem State.pinWrite_answer (s : State) (p : OutPin) (v : Bit) (i : Nat) :
    (s.pinWrite p v).answer i = s.answer i :=
  State.answer_congr (by simp) (by simp) i

end Sys2Proof.Machine
end

