-- ==== Sys2Proof/Laws/Motion.lean ====
section
/-!
SUPPORT. What the loop of move_axis and move_axis itself can do, said once (spec 41_motion.md R180, R181, R190).
-/

namespace Sys2Proof.Machine

@[simp] theorem dirOf_sign_pos {n : Int} (h : 0 < n) : dirOf n = .plus := by simp [dirOf, h]
@[simp] theorem dirOf_sign_neg {n : Int} (h : n < 0) : dirOf n = .minus := by simp [dirOf, Int.not_lt.2 (Int.le_of_lt h)]

theorem inSoftRange_iff (c : Config) (a : Axis) (t : Int) :
    inSoftRange c a t = true ↔ c.softMin.get a ≤ t ∧ t ≤ c.softMax.get a := by
  simp [inSoftRange]

/-! One completed step. -/

@[simp] theorem completeStep_cfg (a : Axis) (t : Int) (s : State) : (completeStep a t s).cfg = s.cfg := by simp [completeStep]
@[simp] theorem completeStep_pos (a : Axis) (t : Int) (s : State) : (completeStep a t s).pos = s.pos.set a t := by
  simp [completeStep]
@[simp] theorem completeStep_homed (a : Axis) (t : Int) (s : State) : (completeStep a t s).homed = s.homed := by
  simp [completeStep]
@[simp] theorem completeStep_stepOut (a : Axis) (t : Int) (s : State) :
    (completeStep a t s).stepOut = s.stepOut.set a false := by
  simp [completeStep]
@[simp] theorem completeStep_dirOut (a : Axis) (t : Int) (s : State) : (completeStep a t s).dirOut = s.dirOut := by
  simp [completeStep]
@[simp] theorem completeStep_mphase (a : Axis) (t : Int) (s : State) : (completeStep a t s).mphase = s.mphase := by
  simp [completeStep]
@[simp] theorem completeStep_hphase (a : Axis) (t : Int) (s : State) : (completeStep a t s).hphase = s.hphase := by
  simp [completeStep]
@[simp] theorem completeStep_susp (a : Axis) (t : Int) (s : State) : (completeStep a t s).susp = s.susp := by
  simp [completeStep]
@[simp] theorem completeStep_loop (a : Axis) (t : Int) (s : State) :
    (completeStep a t s).loop = { s.loop with done := s.loop.done + 1 } := by
  simp [completeStep]
@[simp] theorem completeStep_mainTrace (a : Axis) (t : Int) (s : State) :
    (completeStep a t s).mainTrace = s.mainTrace ++ pulseEvents a := by
  simp [completeStep]
@[simp] theorem completeStep_answer (a : Axis) (t : Int) (s : State) (i : Nat) :
    (completeStep a t s).answer i = s.answer i := by
  simp [completeStep]
@[simp] theorem completeStep_pins (a : Axis) (t : Int) (s : State) :
    (completeStep a t s).env.pins = s.env.pins := by
  simp [completeStep]
theorem completeStep_ready (a : Axis) (t : Int) {s : State} (h : s.ready = true) :
    (completeStep a t s).ready = s.ready := by
  simp [completeStep, State.pulse_ready a h]
theorem completeStep_buf (a : Axis) (t : Int) {s : State} (h : s.ready = true) : (completeStep a t s).buf = s.buf := by
  simp [completeStep, State.pulse_buf a h]
theorem completeStep_cur (a : Axis) (t : Int) {s : State} (h : s.ready = true) : (completeStep a t s).cur = s.cur := by
  simp [completeStep, State.pulse_cur a h]

/-! The loop. -/

/-- At most one count of steps satisfies a `MoveRun`. -/
theorem MoveRun.unique {c : Config} {a : Axis} {d : Dir} {p : Int} {ans : Nat → Bit} {n k j : Nat}
    (h : MoveRun c a d p ans n k) (g : MoveRun c a d p ans n j) : k = j := by
  rcases Nat.lt_trichotomy k j with hlt | rfl | hlt
  · obtain hr | hs := h.stop (by have := g.le; omega)
    · simp [g.reads k hlt] at hr
    · simp [g.soft k hlt] at hs
  · rfl
  · obtain hr | hs := g.stop (by have := h.le; omega)
    · simp [h.reads j hlt] at hr
    · simp [h.soft j hlt] at hs

/-- What `t` holds after the loop ran `k` of `n` steps from `s`. -/
structure MoveLoopSpec (a : Axis) (n k : Nat) (s t : State) : Prop where
  run : MoveRun s.cfg a s.loop.d (s.pos.get a) s.answer n k
  cfg : t.cfg = s.cfg
  pos : t.pos = s.pos.set a (s.pos.get a + s.loop.d.sign * k)
  homed : t.homed = s.homed
  stepOut : t.stepOut = if k = 0 then s.stepOut else s.stepOut.set a false
  dirOut : t.dirOut = s.dirOut
  mphase : t.mphase = s.mphase
  hphase : t.hphase = s.hphase
  susp : t.susp = s.susp
  loop : t.loop = { s.loop with done := s.loop.done + k }
  mailbox : s.ready = true → t.ready = s.ready ∧ t.buf = s.buf ∧ t.cur = s.cur
  events : t.mainTrace = s.mainTrace ++ moveEvents a s.loop.d k n (s.answer k)
  pins : t.env.pins = s.env.pins.drop (if k < n then k + 1 else k)
  answer : ∀ i, t.answer i = s.answer (i + if k < n then k + 1 else k)

theorem PerAxis.set_get_self {α : Type} (p : PerAxis α) (a : Axis) : p.set a (p.get a) = p := by cases a <;> rfl

@[simp] theorem PerAxis.set_set {α : Type} (p : PerAxis α) (a : Axis) (v w : α) : (p.set a v).set a w = p.set a w := by
  cases a <;> rfl

theorem moveLoop_spec (a : Axis) (n : Nat) (s : State) : ∃ k, MoveLoopSpec a n k s (moveLoop a n s) := by
  induction n generalizing s with
  | zero =>
    refine ⟨0, ?_⟩
    constructor <;> try simp [moveLoop, moveEvents, readRounds, PerAxis.set_get_self]
    exact ⟨Nat.le_refl _, by simp, by simp, by simp⟩
  | succ n ih =>
    by_cases hans : s.answer 0 = true
    · by_cases hsoft : inSoftRange s.cfg a (s.pos.get a + s.loop.d.sign) = true
      · obtain ⟨k, h⟩ := ih (completeStep a (s.pos.get a + s.loop.d.sign) (s.pinRead (limitPin a s.loop.d)).2)
        have heq : moveLoop a (n + 1) s =
            moveLoop a n (completeStep a (s.pos.get a + s.loop.d.sign) (s.pinRead (limitPin a s.loop.d)).2) := by
          simp [moveLoop, asserted, hans, hsoft]
        rw [heq]
        refine ⟨k + 1, ?_⟩
        have hrun := h.run
        simp only [completeStep_cfg, State.pinRead_cfg, completeStep_loop, State.pinRead_loop, completeStep_pos,
          State.pinRead_pos, PerAxis.get_set_self] at hrun
        have hpos : ∀ j : Nat, s.pos.get a + s.loop.d.sign + s.loop.d.sign * ((j : Int) + 1) =
            s.pos.get a + s.loop.d.sign * (((j + 1 : Nat) : Int) + 1) := by
          intro j
          push_cast
          ring
        have hk : (if k + 1 < n + 1 then k + 1 + 1 else k + 1) = (if k < n then k + 1 else k) + 1 := by
          by_cases hlt : k < n <;> simp [hlt]
        constructor
        · constructor
          · exact Nat.succ_le_succ hrun.le
          · intro i hi
            cases i with
            | zero => exact hans
            | succ i => simpa using hrun.reads i (by omega)
          · intro i hi
            cases i with
            | zero => simpa using hsoft
            | succ i => rw [← hpos i]; exact hrun.soft i (by omega)
          · intro hlt
            have hstop := hrun.stop (by omega)
            rw [hpos k] at hstop
            simpa using hstop
        · simpa using h.cfg
        · rw [h.pos]
          simp only [completeStep_pos, State.pinRead_pos, PerAxis.set_set, PerAxis.get_set_self, completeStep_loop,
            State.pinRead_loop]
          congr 1
          push_cast
          ring
        · simpa using h.homed
        · rw [h.stepOut]
          by_cases h0 : k = 0 <;> simp [h0]
        · simpa using h.dirOut
        · simpa using h.mphase
        · simpa using h.hphase
        · simpa using h.susp
        · rw [h.loop]
          simp [Nat.add_comm, Nat.add_left_comm]
        · intro hr
          have hr1 : (s.pinRead (limitPin a s.loop.d)).2.ready = true := by rw [State.pinRead_ready _ hr, hr]
          obtain ⟨h1, h2, h3⟩ := h.mailbox (by rw [completeStep_ready _ _ hr1, hr1])
          refine ⟨?_, ?_, ?_⟩
          · rw [h1, completeStep_ready _ _ hr1, State.pinRead_ready _ hr]
          · rw [h2, completeStep_buf _ _ hr1, State.pinRead_buf _ hr]
          · rw [h3, completeStep_cur _ _ hr1, State.pinRead_cur _ hr]
        · rw [h.events]
          simp [moveEvents, readRounds, hans]
        · rw [h.pins, hk]
          simp
        · intro i
          rw [h.answer i, hk]
          simp [Nat.add_assoc]
      · have hsoft' : inSoftRange s.cfg a (s.pos.get a + s.loop.d.sign) = false := by simpa using hsoft
        have heq : moveLoop a (n + 1) s = (s.pinRead (limitPin a s.loop.d)).2 := by
          simp [moveLoop, asserted, hans, hsoft']
        rw [heq]
        refine ⟨0, ?_⟩
        constructor <;> try simp [moveEvents, readRounds, PerAxis.set_get_self]
        · exact ⟨by omega, by simp, by simp, fun _ => Or.inr (by simpa using hsoft')⟩
        · intro hr
          exact ⟨by rw [State.pinRead_ready _ hr, hr], State.pinRead_buf _ hr, State.pinRead_cur _ hr⟩
    · have hans' : s.answer 0 = false := by simpa using hans
      have heq : moveLoop a (n + 1) s = (s.pinRead (limitPin a s.loop.d)).2 := by
        simp [moveLoop, asserted, hans']
      rw [heq]
      refine ⟨0, ?_⟩
      constructor <;> try simp [moveEvents, readRounds, PerAxis.set_get_self]
      · exact ⟨by omega, by simp, by simp, fun _ => Or.inl hans'⟩
      · intro hr
        exact ⟨by rw [State.pinRead_ready _ hr, hr], State.pinRead_buf _ hr, State.pinRead_cur _ hr⟩

/-! move_axis. -/

theorem boundOf_le (n : Int) (s : State) (h : InI32 n) : boundOf n s ≤ n.natAbs := by
  unfold boundOf
  split
  · rename_i hn
    have := s.drawBound_le
    subst hn
    simpa [i32Min] using this
  · exact Nat.le_refl _

/-- What `moveStart` leaves: the direction set and settled, the bound loaded, `done` cleared. -/
structure MoveStartSpec (a : Axis) (n : Int) (s t : State) : Prop where
  cfg : t.cfg = s.cfg
  pos : t.pos = s.pos
  homed : t.homed = s.homed
  stepOut : t.stepOut = s.stepOut
  dirOut : t.dirOut = s.dirOut.set a (dirLevel (s.cfg.polarity.get a) (dirOf n))
  mphase : t.mphase = s.mphase
  hphase : t.hphase = s.hphase
  susp : t.susp = s.susp
  loop : t.loop = { s.loop with d := dirOf n, bound := boundOf n s, done := 0 }
  mailbox : s.ready = true → t.ready = s.ready ∧ t.buf = s.buf ∧ t.cur = s.cur
  events : t.mainTrace = s.mainTrace ++ dirEvents s.cfg a (dirOf n)
  pins : t.env.pins = s.env.pins
  answer : ∀ i, t.answer i = s.answer i

theorem moveStart_spec (a : Axis) (n : Int) (s : State) : MoveStartSpec a n s (moveStart a n s) := by
  have hdraw : ((s.setLoop { s.loop with d := dirOf n }).setDir a (dirOf n)).drawBound.1 = s.drawBound.1 :=
    State.drawBound_fst_congr (by simp) (by simp)
  have hready : ∀ h : s.ready = true,
      ((s.setLoop { s.loop with d := dirOf n }).setDir a (dirOf n)).ready = s.ready ∧
      ((s.setLoop { s.loop with d := dirOf n }).setDir a (dirOf n)).buf = s.buf ∧
      ((s.setLoop { s.loop with d := dirOf n }).setDir a (dirOf n)).cur = s.cur := fun h =>
    ⟨State.setDir_ready a _ (show (s.setLoop _).ready = true from h),
      State.setDir_buf a _ (show (s.setLoop _).ready = true from h),
      State.setDir_cur a _ (show (s.setLoop _).ready = true from h)⟩
  by_cases hn : n = i32Min
  · constructor <;> simp [moveStart, stepBound, boundOf, hn] at hdraw hready ⊢
    · exact hdraw
    · exact hready
  · constructor <;> simp [moveStart, stepBound, boundOf, hn] at hready ⊢
    exact hready

/-- What `move_axis(a, n)` answers and leaves for `n` other than 0, after `k` steps (R180). -/
structure MoveAxisSpec (a : Axis) (n : Int) (k : Nat) (s : State) (r : Int) (t : State) : Prop where
  run : MoveRun s.cfg a (dirOf n) (s.pos.get a) s.answer (boundOf n s) k
  result : r = (dirOf n).sign * k
  cfg : t.cfg = s.cfg
  pos : t.pos = s.pos.set a (s.pos.get a + r)
  homed : t.homed = s.homed
  stepOut : t.stepOut = if k = 0 then s.stepOut else s.stepOut.set a false
  dirOut : t.dirOut = s.dirOut.set a (dirLevel (s.cfg.polarity.get a) (dirOf n))
  mphase : t.mphase = s.mphase
  hphase : t.hphase = s.hphase
  susp : t.susp = s.susp
  mailbox : s.ready = true → t.ready = s.ready ∧ t.buf = s.buf ∧ t.cur = s.cur
  events : t.mainTrace = s.mainTrace ++ dirEvents s.cfg a (dirOf n) ++
    moveEvents a (dirOf n) k (boundOf n s) (s.answer k)
  pins : t.env.pins = s.env.pins.drop (if k < boundOf n s then k + 1 else k)
  answer : ∀ i, t.answer i = s.answer (i + if k < boundOf n s then k + 1 else k)

theorem moveAxis_zero (a : Axis) (s : State) : moveAxis a 0 s = (0, s) := by simp [moveAxis]

theorem moveAxis_spec (a : Axis) (n : Int) (s : State) (hn : n ≠ 0) :
    ∃ k, MoveAxisSpec a n k s (moveAxis a n s).1 (moveAxis a n s).2 := by
  have hs := moveStart_spec a n s
  obtain ⟨k, h⟩ := moveLoop_spec a (moveStart a n s).loop.bound (moveStart a n s)
  have heq : moveAxis a n s =
      ((moveLoop a (moveStart a n s).loop.bound (moveStart a n s)).loop.d.sign *
        ((moveLoop a (moveStart a n s).loop.bound (moveStart a n s)).loop.done : Int),
        moveLoop a (moveStart a n s).loop.bound (moveStart a n s)) := by
    simp [moveAxis, hn]
  have hd : (moveStart a n s).loop.d = dirOf n := by rw [hs.loop]
  have hb : (moveStart a n s).loop.bound = boundOf n s := by rw [hs.loop]
  have hres : (moveAxis a n s).1 = (dirOf n).sign * k := by
    rw [heq, h.loop, hs.loop]
    simp
  have hsnd : (moveAxis a n s).2 = moveLoop a (boundOf n s) (moveStart a n s) := by rw [heq, hb]
  have hansw : (moveStart a n s).answer = s.answer := funext hs.answer
  rw [hb] at h
  rw [hres, hsnd]
  have hrun := h.run
  rw [hs.cfg, hd, hs.pos, hansw] at hrun
  refine ⟨k, hrun, rfl, ?_, ?_, ?_, ?_, ?_, ?_, ?_, ?_, ?_, ?_, ?_, ?_⟩
  · rw [h.cfg, hs.cfg]
  · rw [h.pos, hs.pos, hd]
  · rw [h.homed, hs.homed]
  · rw [h.stepOut, hs.stepOut]
  · rw [h.dirOut, hs.dirOut]
  · rw [h.mphase, hs.mphase]
  · rw [h.hphase, hs.hphase]
  · rw [h.susp, hs.susp]
  · intro hr
    obtain ⟨a1, a2, a3⟩ := hs.mailbox hr
    obtain ⟨b1, b2, b3⟩ := h.mailbox (by rw [a1, hr])
    exact ⟨by rw [b1, a1], by rw [b2, a2], by rw [b3, a3]⟩
  · rw [h.events, hs.events, hd, hansw]
  · rw [h.pins, hs.pins]
  · intro i
    rw [h.answer, hansw]

end Sys2Proof.Machine
end

