-- ==== Sys2Proof/Laws/Homing.lean ====
section
/-!
SUPPORT. What each phase of the Homing Sequencer and home itself can do, said once (spec 42_homing.md R212 to R221,
R229).
-/

namespace Sys2Proof.Machine

/-- The fields no phase of homing writes keep their values, those of the other axis included; `p` pulses were issued on
`a` and `r` pin answers taken. -/
structure HomingKept (a : Axis) (p r : Nat) (s t : State) : Prop where
  cfg : t.cfg = s.cfg
  pos : t.pos = s.pos
  stepOut : t.stepOut = if p = 0 then s.stepOut else s.stepOut.set a false
  mphase : t.mphase = s.mphase
  susp : t.susp = s.susp
  mailbox : s.ready = true → t.ready = s.ready ∧ t.buf = s.buf ∧ t.cur = s.cur
  pins : t.env.pins = s.env.pins.drop r
  answer : ∀ i, t.answer i = s.answer (i + r)

theorem HomingKept.refl (a : Axis) (s : State) : HomingKept a 0 0 s s := by
  constructor <;> simp

theorem HomingKept.trans {a : Axis} {p q r u : Nat} {s t w : State} (h : HomingKept a p r s t)
    (g : HomingKept a q u t w) : HomingKept a (p + q) (r + u) s w where
  cfg := by rw [g.cfg, h.cfg]
  pos := by rw [g.pos, h.pos]
  stepOut := by
    rw [g.stepOut, h.stepOut]
    by_cases hp : p = 0 <;> by_cases hq : q = 0 <;> simp [hp, hq]
  mphase := by rw [g.mphase, h.mphase]
  susp := by rw [g.susp, h.susp]
  mailbox := by
    intro hr
    obtain ⟨h1, h2, h3⟩ := h.mailbox hr
    obtain ⟨g1, g2, g3⟩ := g.mailbox (by rw [h1, hr])
    exact ⟨by rw [g1, h1], by rw [g2, h2], by rw [g3, h3]⟩
  pins := by rw [g.pins, h.pins, List.drop_drop]
  answer := by
    intro i
    rw [g.answer, h.answer]
    congr 1
    omega

theorem HomingKept.pinRead (a : Axis) (s : State) (p : InPin) : HomingKept a 0 1 s (s.pinRead p).2 where
  cfg := by simp
  pos := by simp
  stepOut := by simp
  mphase := by simp
  susp := by simp
  mailbox := fun h => ⟨State.pinRead_ready p h, State.pinRead_buf p h, State.pinRead_cur p h⟩
  pins := by simp
  answer := by simp

theorem HomingKept.pulse (a : Axis) (s : State) : HomingKept a 1 0 s (s.pulse a) where
  cfg := by simp
  pos := by simp
  stepOut := by simp
  mphase := by simp
  susp := by simp
  mailbox := fun h => ⟨State.pulse_ready a h, State.pulse_buf a h, State.pulse_cur a h⟩
  pins := by simp
  answer := by simp

theorem HomingKept.delay (a : Axis) (s : State) (d : Duration) : HomingKept a 0 0 s (s.delay d) where
  cfg := by simp
  pos := by simp
  stepOut := by simp
  mphase := by simp
  susp := by simp
  mailbox := fun h => ⟨State.delay_ready d h, State.delay_buf d h, State.delay_cur d h⟩
  pins := by simp
  answer := by simp

theorem HomingKept.setDir (a : Axis) (s : State) (d : Dir) : HomingKept a 0 0 s (s.setDir a d) where
  cfg := by simp
  pos := by simp
  stepOut := by simp
  mphase := by simp
  susp := by simp
  mailbox := fun h => ⟨State.setDir_ready a d h, State.setDir_buf a d h, State.setDir_cur a d h⟩
  pins := by simp
  answer := by simp

theorem HomingKept.setLoop (a : Axis) (s : State) (r : LoopRegs) : HomingKept a 0 0 s (s.setLoop r) := by
  constructor <;> simp

theorem HomingKept.setHomed (a : Axis) (s : State) (v : Bit) : HomingKept a 0 0 s (s.setHomed a v) := by
  constructor <;> simp

theorem HomingKept.setHphase (a : Axis) (s : State) (v : HPhase) : HomingKept a 0 0 s (s.setHphase a v) := by
  constructor <;> simp

/-! Phase 1. -/

/-- What the seek loop may say after `k` pulses with `n` allowed (R212, R213). -/
structure SeekRun (tie : SeekTie) (ans : Nat → Bit) (n k : Nat) (found : Bool) : Prop where
  le : k ≤ n
  reads : ∀ i, i < k → ans i = true
  onFound : found = true → ans k = false ∧ (k < n ∨ tie = .limitWins)
  onTimeout : found = false → k = n ∧ (ans k = true ∨ tie = .timeoutWins)

structure SeekLoopSpec (a : Axis) (n k : Nat) (found : Bool) (s t : State) : Prop where
  run : SeekRun s.cfg.seekTie s.answer n k found
  kept : HomingKept a k (k + 1) s t
  homed : t.homed = s.homed
  dirOut : t.dirOut = s.dirOut
  hphase : t.hphase = s.hphase
  loop : t.loop = { s.loop with cnt := s.loop.cnt + k }
  events : t.mainTrace = s.mainTrace ++ readRounds (.neg a) true (pulseEvents a) k ++ [.pinRead (.neg a) (s.answer k)]

theorem seekRead_snd (a : Axis) (s : State) : (seekRead a s).2 = (s.pinRead (.neg a)).2 := rfl

theorem seekRead_fst (a : Axis) (s : State) :
    (seekRead a s).1 = seekTest s.cfg.seekTie (!s.answer 0) (decide (s.cfg.seekCeiling.get a ≤ s.loop.cnt)) := by
  simp [seekRead, asserted]

theorem seekPulse_kept (a : Axis) (s : State) : HomingKept a 1 0 s (seekPulse a s) :=
  (HomingKept.pulse a s).trans (HomingKept.setLoop a _ _)

theorem seekLoop_spec (a : Axis) (n : Nat) (s : State) (hn : s.loop.cnt + n = s.cfg.seekCeiling.get a) :
    ∃ k, SeekLoopSpec a n k (seekLoop a n s).1 s (seekLoop a n s).2 := by
  induction n generalizing s with
  | zero =>
    have hceil : s.cfg.seekCeiling.get a ≤ s.loop.cnt := by omega
    refine ⟨0, ?_, ?_, ?_, ?_, ?_, ?_, ?_⟩
    · simp only [seekLoop, seekRead_fst, hceil, decide_true]
      cases htie : s.cfg.seekTie <;> cases hans : s.answer 0 <;>
        constructor <;> simp [seekTest, hans]
    · exact HomingKept.pinRead a s _
    all_goals simp [seekLoop, seekRead_snd, readRounds]
  | succ n ih =>
    have hceil : ¬ s.cfg.seekCeiling.get a ≤ s.loop.cnt := by omega
    cases hans : s.answer 0 with
    | false =>
      have hfst : (seekRead a s).1 = .found := by
        rw [seekRead_fst]
        cases s.cfg.seekTie <;> simp [seekTest, hans, hceil]
      have heq : seekLoop a (n + 1) s = (true, (s.pinRead (.neg a)).2) := by
        simp [seekLoop, hfst, seekRead_snd]
      rw [heq]
      refine ⟨0, ?_, HomingKept.pinRead a s _, ?_, ?_, ?_, ?_, ?_⟩
      · constructor <;> simp [hans]
      all_goals simp [readRounds, hans]
    | true =>
      have hfst : (seekRead a s).1 = .goOn := by
        rw [seekRead_fst]
        cases s.cfg.seekTie <;> simp [seekTest, hans, hceil]
      have heq : seekLoop a (n + 1) s = seekLoop a n (seekPulse a (s.pinRead (.neg a)).2) := by
        simp [seekLoop, hfst, seekRead_snd]
      obtain ⟨k, h⟩ := ih (seekPulse a (s.pinRead (.neg a)).2) (by simp [seekPulse]; omega)
      have hpre := (HomingKept.pinRead a s (.neg a)).trans (seekPulse_kept a (s.pinRead (.neg a)).2)
      rw [heq]
      refine ⟨k + 1, ?_, ?_, ?_, ?_, ?_, ?_, ?_⟩
      · have hrun := h.run
        rw [hpre.cfg] at hrun
        have hansw : (seekPulse a (s.pinRead (.neg a)).2).answer = fun i => s.answer (i + 1) := funext hpre.answer
        rw [hansw] at hrun
        constructor
        · exact Nat.succ_le_succ hrun.le
        · intro i hi
          cases i with
          | zero => exact hans
          | succ i => exact hrun.reads i (by omega)
        · intro hf
          obtain ⟨h1, h2⟩ := hrun.onFound hf
          exact ⟨h1, h2.imp (by omega) id⟩
        · intro hf
          obtain ⟨h1, h2⟩ := hrun.onTimeout hf
          exact ⟨by omega, h2⟩
      · have := hpre.trans h.kept
        rwa [show 0 + 1 + k = k + 1 by omega, show 1 + 0 + (k + 1) = k + 1 + 1 by omega] at this
      · rw [h.homed]; simp [seekPulse]
      · rw [h.dirOut]; simp [seekPulse]
      · rw [h.hphase]; simp [seekPulse]
      · rw [h.loop]; simp [seekPulse, Nat.add_comm, Nat.add_left_comm]
      · rw [h.events, hpre.answer]
        simp [seekPulse, readRounds, hans]

/-! Phase 2. -/

structure BackOffSpec (a : Axis) (n : Nat) (s t : State) : Prop where
  kept : HomingKept a n 0 s t
  homed : t.homed = s.homed
  dirOut : t.dirOut = s.dirOut
  hphase : t.hphase = s.hphase
  loop : t.loop = { s.loop with k := s.loop.k + n }
  events : t.mainTrace = s.mainTrace ++ pulseRounds a n

theorem backOffLoop_spec (a : Axis) (n : Nat) (s : State) : BackOffSpec a n s (backOffLoop a n s) := by
  induction n generalizing s with
  | zero => exact ⟨HomingKept.refl a s, rfl, rfl, rfl, rfl, by simp [backOffLoop, pulseRounds]⟩
  | succ n ih =>
    have h := ih ((s.setLoop { s.loop with k := s.loop.k + 1 }).pulse a)
    have hpre := (HomingKept.setLoop a s { s.loop with k := s.loop.k + 1 }).trans (HomingKept.pulse a _)
    refine ⟨?_, ?_, ?_, ?_, ?_, ?_⟩
    · have := hpre.trans h.kept
      rwa [show 0 + 1 + n = n + 1 by omega] at this
    · rw [backOffLoop, h.homed]; simp
    · rw [backOffLoop, h.dirOut]; simp
    · rw [backOffLoop, h.hphase]; simp
    · rw [backOffLoop, h.loop]; simp [Nat.add_comm, Nat.add_left_comm]
    · rw [backOffLoop, h.events]; simp [pulseRounds]

/-! Phase 3. -/

structure ReapproachSpec (a : Axis) (n k : Nat) (hit : Bool) (s t : State) : Prop where
  le : k ≤ n
  reads : ∀ i, i < k → s.answer i = true
  onHit : hit = true → k < n ∧ s.answer k = false
  onMiss : hit = false → k = n
  kept : HomingKept a k (if hit then k + 1 else k) s t
  homed : t.homed = s.homed
  dirOut : t.dirOut = s.dirOut
  hphase : t.hphase = s.hphase
  loop : t.loop = s.loop
  events : t.mainTrace = s.mainTrace ++ readRounds (.neg a) true (slowEvents a) k ++
    if hit then [.pinRead (.neg a) false] else []

theorem reapproachLoop_spec (a : Axis) (n : Nat) (s : State) :
    ∃ k, ReapproachSpec a n k (reapproachLoop a n s).1 s (reapproachLoop a n s).2 := by
  induction n generalizing s with
  | zero =>
    refine ⟨0, ?_⟩
    constructor <;> first | exact HomingKept.refl a s | simp [reapproachLoop, readRounds]
  | succ n ih =>
    cases hans : s.answer 0 with
    | false =>
      have heq : reapproachLoop a (n + 1) s = (true, (s.pinRead (.neg a)).2) := by
        simp [reapproachLoop, asserted, hans]
      rw [heq]
      refine ⟨0, ?_⟩
      constructor <;> first | exact HomingKept.pinRead a s _ | simp [readRounds, hans]
    | true =>
      have heq : reapproachLoop a (n + 1) s =
          reapproachLoop a n (((s.pinRead (.neg a)).2.pulse a).delay .tSlow) := by
        simp [reapproachLoop, asserted, hans]
      obtain ⟨k, h⟩ := ih (((s.pinRead (.neg a)).2.pulse a).delay .tSlow)
      have hpre := ((HomingKept.pinRead a s (.neg a)).trans (HomingKept.pulse a _)).trans
        (HomingKept.delay a ((s.pinRead (.neg a)).2.pulse a) .tSlow)
      rw [heq]
      refine ⟨k + 1, ?_, ?_, ?_, ?_, ?_, ?_, ?_, ?_, ?_, ?_⟩
      · exact Nat.succ_le_succ h.le
      · intro i hi
        cases i with
        | zero => exact hans
        | succ i =>
          have := h.reads i (by omega)
          rwa [hpre.answer] at this
      · intro hh
        obtain ⟨h1, h2⟩ := h.onHit hh
        rw [hpre.answer] at h2
        exact ⟨by omega, h2⟩
      · intro hh
        rw [h.onMiss hh]
      · have := hpre.trans h.kept
        split <;> rename_i hh
        · simp only [hh, if_true] at this
          rwa [show 0 + 1 + 0 + k = k + 1 by omega, show 1 + 0 + 0 + (k + 1) = k + 1 + 1 by omega] at this
        · simp only [hh] at this
          rwa [show 0 + 1 + 0 + k = k + 1 by omega, show 1 + 0 + 0 + (if false = true then k + 1 else k) = k + 1 by simp; omega] at this
      · rw [h.homed]; simp
      · rw [h.dirOut]; simp
      · rw [h.hphase]; simp
      · rw [h.loop]; simp
      · rw [h.events]
        simp [readRounds, slowEvents, hans]

/-! The phases with their entries. -/

theorem seekPhase_spec (a : Axis) (s : State) :
    ∃ k, SeekRun s.cfg.seekTie s.answer (s.cfg.seekCeiling.get a) k (seekPhase a s).1 ∧
      HomingKept a k (k + 1) s (seekPhase a s).2 ∧
      (seekPhase a s).2.homed = s.homed.set a false ∧
      (seekPhase a s).2.hphase = s.hphase.set a .seekingLimit ∧
      (seekPhase a s).2.dirOut = s.dirOut.set a (dirLevel (s.cfg.polarity.get a) .minus) ∧
      (seekPhase a s).2.mainTrace = s.mainTrace ++ dirEvents s.cfg a .minus ++
        readRounds (.neg a) true (pulseEvents a) k ++ [.pinRead (.neg a) (s.answer k)] := by
  let u := ((s.setHomed a false).setHphase a .seekingLimit).setDir a .minus
  let w := u.setLoop { u.loop with d := .minus, cnt := 0 }
  have hkept : HomingKept a 0 0 s w :=
    (((HomingKept.setHomed a s false).trans (HomingKept.setHphase a _ .seekingLimit)).trans
      (HomingKept.setDir a _ .minus)).trans (HomingKept.setLoop a u { u.loop with d := .minus, cnt := 0 })
  have heq : seekPhase a s = seekLoop a (w.cfg.seekCeiling.get a) w := rfl
  obtain ⟨k, h⟩ := seekLoop_spec a (w.cfg.seekCeiling.get a) w (by simp [w])
  have hansw : w.answer = s.answer := funext hkept.answer
  have hrun := h.run
  rw [hansw, hkept.cfg] at hrun
  rw [heq]
  refine ⟨k, by rw [hkept.cfg]; exact hrun, ?_, ?_, ?_, ?_, ?_⟩
  · have := hkept.trans h.kept
    rwa [Nat.zero_add, Nat.zero_add] at this
  · rw [h.homed]; simp [w, u]
  · rw [h.hphase]; simp [w, u]
  · rw [h.dirOut]; simp [w, u]
  · rw [h.events, hansw]; simp [w, u]

theorem backOffPhase_spec (a : Axis) (s : State) :
    HomingKept a s.cfg.backoffSteps 0 s (backOffPhase a s) ∧
      (backOffPhase a s).homed = s.homed ∧
      (backOffPhase a s).hphase = s.hphase.set a .backingOff ∧
      (backOffPhase a s).dirOut = s.dirOut.set a (dirLevel (s.cfg.polarity.get a) .plus) ∧
      (backOffPhase a s).mainTrace = s.mainTrace ++ dirEvents s.cfg a .plus ++ pulseRounds a s.cfg.backoffSteps := by
  let u := (s.setHphase a .backingOff).setDir a .plus
  let w := u.setLoop { u.loop with d := .plus, k := 0 }
  have hkept : HomingKept a 0 0 s w :=
    ((HomingKept.setHphase a s .backingOff).trans (HomingKept.setDir a _ .plus)).trans
      (HomingKept.setLoop a u { u.loop with d := .plus, k := 0 })
  have heq : backOffPhase a s = backOffLoop a w.cfg.backoffSteps w := rfl
  have h := backOffLoop_spec a w.cfg.backoffSteps w
  rw [hkept.cfg] at h heq
  rw [heq]
  refine ⟨?_, ?_, ?_, ?_, ?_⟩
  · have := hkept.trans h.kept
    rwa [Nat.zero_add, Nat.zero_add] at this
  · rw [h.homed]; simp [w, u]
  · rw [h.hphase]; simp [w, u]
  · rw [h.dirOut]; simp [w, u]
  · rw [h.events]; simp [w, u]

theorem reapproachStart_spec (a : Axis) (s : State) :
    HomingKept a 0 0 s (reapproachStart a s) ∧
      (reapproachStart a s).homed = s.homed ∧
      (reapproachStart a s).hphase = s.hphase.set a .reapproachingSlow ∧
      (reapproachStart a s).dirOut = s.dirOut.set a (dirLevel (s.cfg.polarity.get a) .minus) ∧
      (reapproachStart a s).mainTrace = s.mainTrace ++ dirEvents s.cfg a .minus := by
  refine ⟨((HomingKept.setHphase a s .reapproachingSlow).trans (HomingKept.setDir a _ .minus)).trans
    (HomingKept.setLoop a _ _), ?_, ?_, ?_, ?_⟩ <;> simp [reapproachStart]

/-- What `t` holds, and why, when the re-approach entered at `s` ends a model step with `r` (R217 to R219). -/
structure ReapproachOutcome (a : Axis) (s : State) (r : HomeStatus) (t : State) : Prop where
  notErr : r ≠ .err
  cfg : t.cfg = s.cfg
  pos : t.pos = if r = .ok then s.pos.set a (s.cfg.homeRef.get a) else s.pos
  homed : t.homed = if r = .ok then s.homed.set a true else s.homed
  hphase : t.hphase = if r = .ok then s.hphase.set a .idle else s.hphase
  stepOut : t.stepOut = s.stepOut ∨ t.stepOut = s.stepOut.set a false
  dirOut : t.dirOut = s.dirOut
  mphase : t.mphase = s.mphase
  susp : t.susp = s.susp
  mailbox : s.ready = true → t.ready = s.ready ∧ t.buf = s.buf ∧ t.cur = s.cur
  onOk : r = .ok → ∃ m, ReapproachEnds s 0 m ∧
    t.mainTrace = s.mainTrace ++ readRounds (.neg a) true (slowEvents a) m ++ [.pinRead (.neg a) false] ∧
    t.env.pins = s.env.pins.drop (m + 1) ∧ ∀ i, t.answer i = s.answer (i + (m + 1))
  onRunning : r = .running → ReapproachGoesOn s 0 ∧
    t.mainTrace = s.mainTrace ++ readRounds (.neg a) true (slowEvents a) (reapproachReads s 0) ∧
    t.env.pins = s.env.pins.drop (reapproachReads s 0) ∧ ∀ i, t.answer i = s.answer (i + reapproachReads s 0)

theorem HomingKept.stepOut_or {a : Axis} {p r : Nat} {s t : State} (h : HomingKept a p r s t) :
    t.stepOut = s.stepOut ∨ t.stepOut = s.stepOut.set a false := by
  rw [h.stepOut]
  split
  · exact Or.inl rfl
  · exact Or.inr rfl

theorem reapproach_spec (a : Axis) (s : State) : ReapproachOutcome a s (reapproach a s).1 (reapproach a s).2 := by
  obtain ⟨m, h⟩ := reapproachLoop_spec a (max 1 s.env.pins.length) s
  cases hhit : (reapproachLoop a (max 1 s.env.pins.length) s).1 with
  | true =>
    have heq : reapproach a s = (.ok, homeFinish a (reapproachLoop a (max 1 s.env.pins.length) s).2) := by
      simp [reapproach, hhit]
    rw [hhit] at h
    obtain ⟨hlt, hans⟩ := h.onHit rfl
    rw [heq]
    constructor
    · simp
    · simpa [homeFinish] using h.kept.cfg
    · simp [homeFinish, h.kept.pos, h.kept.cfg]
    · simp [homeFinish, h.homed]
    · simp [homeFinish, h.hphase]
    · simpa [homeFinish] using h.kept.stepOut_or
    · simpa [homeFinish] using h.dirOut
    · simpa [homeFinish] using h.kept.mphase
    · simpa [homeFinish] using h.kept.susp
    · exact h.kept.mailbox
    · intro _
      refine ⟨m, ⟨by simpa using h.reads, by simpa using hans, by simpa [reapproachReads] using hlt⟩, ?_, ?_, ?_⟩
      · simpa [homeFinish] using h.events
      · exact h.kept.pins
      · exact h.kept.answer
    · simp
  | false =>
    have heq : reapproach a s = (.running, (reapproachLoop a (max 1 s.env.pins.length) s).2) := by
      simp [reapproach, hhit]
    rw [hhit] at h
    have hm := h.onMiss rfl
    have hread : reapproachReads s 0 = m := by simp [reapproachReads, hm]
    rw [heq]
    constructor
    · simp
    · exact h.kept.cfg
    · simpa using h.kept.pos
    · simpa using h.homed
    · simpa using h.hphase
    · exact h.kept.stepOut_or
    · exact h.dirOut
    · exact h.kept.mphase
    · exact h.kept.susp
    · exact h.kept.mailbox
    · simp
    · intro _
      rw [hread]
      refine ⟨by simpa [ReapproachGoesOn, hread] using h.reads, ?_, ?_, ?_⟩
      · simpa using h.events
      · simpa using h.kept.pins
      · simpa using h.kept.answer

/-- What `t` holds, and why, when `home(a)` called at `s` ends a model step with `r` (R221, R229). -/
structure HomeOutcome (a : Axis) (s : State) (r : HomeStatus) (t : State) : Prop where
  cfg : t.cfg = s.cfg
  pos : t.pos = if r = .ok then s.pos.set a (s.cfg.homeRef.get a) else s.pos
  homed : t.homed = s.homed.set a (decide (r = .ok))
  hphase : t.hphase = s.hphase.set a (if r = .running then .reapproachingSlow else .idle)
  stepOut : t.stepOut = s.stepOut ∨ t.stepOut = s.stepOut.set a false
  dirOut : t.dirOut = s.dirOut.set a (dirLevel (s.cfg.polarity.get a) .minus)
  mphase : t.mphase = s.mphase
  susp : t.susp = s.susp
  mailbox : s.ready = true → t.ready = s.ready ∧ t.buf = s.buf ∧ t.cur = s.cur
  onErr : r = .err → SeekFails s a 0 ∧
    t.mainTrace = s.mainTrace ++ seekFailEvents s.cfg a (s.answer (s.cfg.seekCeiling.get a)) ∧
    t.env.pins = s.env.pins.drop (s.cfg.seekCeiling.get a + 1) ∧
    ∀ i, t.answer i = s.answer (i + (s.cfg.seekCeiling.get a + 1))
  onOk : r = .ok → ∃ k m, SeekFinds s a 0 k ∧ ReapproachEnds s (k + 1) m ∧
    t.mainTrace = s.mainTrace ++ homeEvents s.cfg a k m ++ [.pinRead (.neg a) false] ∧
    t.env.pins = s.env.pins.drop (k + 1 + (m + 1)) ∧ ∀ i, t.answer i = s.answer (i + (k + 1 + (m + 1)))
  onRunning : r = .running → ∃ k, SeekFinds s a 0 k ∧ ReapproachGoesOn s (k + 1) ∧
    t.mainTrace = s.mainTrace ++ homeEvents s.cfg a k (reapproachReads s (k + 1)) ∧
    t.env.pins = s.env.pins.drop (k + 1 + reapproachReads s (k + 1)) ∧
    ∀ i, t.answer i = s.answer (i + (k + 1 + reapproachReads s (k + 1)))

theorem home_spec (a : Axis) (s : State) : HomeOutcome a s (home a s).1 (home a s).2 := by
  obtain ⟨k, hrun, hkept, hhomed, hhphase, hdir, hev⟩ := seekPhase_spec a s
  cases hfound : (seekPhase a s).1 with
  | false =>
    have heq : home a s = (.err, homeFail a (seekPhase a s).2) := by simp [home, hfound]
    rw [hfound] at hrun
    obtain ⟨hk, hlast⟩ := hrun.onTimeout rfl
    subst hk
    rw [heq]
    constructor
    · simpa [homeFail] using hkept.cfg
    · simpa [homeFail] using hkept.pos
    · simpa [homeFail] using hhomed
    · simp [homeFail, hhphase]
    · simpa [homeFail] using hkept.stepOut_or
    · simpa [homeFail] using hdir
    · simpa [homeFail] using hkept.mphase
    · simpa [homeFail] using hkept.susp
    · exact hkept.mailbox
    · intro _
      refine ⟨⟨by simpa using hrun.reads, by simpa using hlast⟩, ?_, hkept.pins, hkept.answer⟩
      simpa [homeFail, seekFailEvents] using hev
    · simp
    · simp
  | true =>
    have heq : home a s = reapproach a (reapproachStart a (backOffPhase a (seekPhase a s).2)) := by
      simp [home, hfound]
    rw [hfound] at hrun
    obtain ⟨hans, hlim⟩ := hrun.onFound rfl
    have hfinds : SeekFinds s a 0 k := by
      refine ⟨by simpa using hrun.reads, by simpa using hans, ?_⟩
      have hle := hrun.le
      by_cases hlt : k < s.cfg.seekCeiling.get a
      · exact Or.inl hlt
      · exact Or.inr ⟨by omega, hlim.resolve_left hlt⟩
    obtain ⟨bkept, bhomed, bhphase, bdir, bev⟩ := backOffPhase_spec a (seekPhase a s).2
    obtain ⟨rkept, rhomed, rhphase, rdir, rev⟩ := reapproachStart_spec a (backOffPhase a (seekPhase a s).2)
    have pre := (hkept.trans bkept).trans rkept
    have h := reapproach_spec a (reapproachStart a (backOffPhase a (seekPhase a s).2))
    rw [heq]
    generalize reapproachStart a (backOffPhase a (seekPhase a s).2) = u at *
    have hreads : reapproachReads u 0 = reapproachReads s (k + 1) := by
      simp [reapproachReads, pre.pins]
    have hansw : ∀ i, u.answer i = s.answer (k + 1 + i) := by
      intro i
      rw [pre.answer]
      congr 1
      omega
    have huev : u.mainTrace = s.mainTrace ++ homeEvents s.cfg a k 0 := by
      rw [rev, bev, hev, hans, bkept.cfg, hkept.cfg]
      simp [homeEvents, readRounds]
    have happ : ∀ m, homeEvents s.cfg a k 0 ++ readRounds (.neg a) true (slowEvents a) m = homeEvents s.cfg a k m := by
      intro m
      simp [homeEvents, readRounds]
    have hcase : (reapproach a u).1 = .ok ∨ (reapproach a u).1 = .running := by
      have := h.notErr
      cases hr : (reapproach a u).1 <;> simp_all
    constructor
    · rw [h.cfg, pre.cfg]
    · rw [h.pos, pre.pos, pre.cfg]
    · rw [h.homed, rhomed, bhomed, hhomed]
      rcases hcase with hr | hr <;> simp [hr]
    · rw [h.hphase, rhphase, bhphase, hhphase]
      rcases hcase with hr | hr <;> simp [hr]
    · rcases h.stepOut with hs | hs <;> rcases pre.stepOut_or with hp | hp <;> simp [hs, hp]
    · rw [h.dirOut, rdir, bdir, hdir, bkept.cfg, hkept.cfg]
      simp
    · rw [h.mphase, pre.mphase]
    · rw [h.susp, pre.susp]
    · intro hr
      obtain ⟨p1, p2, p3⟩ := pre.mailbox hr
      obtain ⟨q1, q2, q3⟩ := h.mailbox (by rw [p1, hr])
      exact ⟨by rw [q1, p1], by rw [q2, p2], by rw [q3, p3]⟩
    · intro hr
      exact absurd hr h.notErr
    · intro hr
      obtain ⟨m, ⟨h1, h2, h3⟩, hev', hpins, hans'⟩ := h.onOk hr
      refine ⟨k, m, hfinds, ⟨?_, ?_, ?_⟩, ?_, ?_, ?_⟩
      · intro i hi
        rw [← hansw]
        simpa using h1 i hi
      · rw [← hansw]
        simpa using h2
      · rwa [← hreads]
      · rw [hev', huev, List.append_assoc s.mainTrace, happ]
      · rw [hpins, pre.pins, List.drop_drop]
      · intro i
        rw [hans', hansw]
        congr 1
        omega
    · intro hr
      obtain ⟨h1, hev', hpins, hans'⟩ := h.onRunning hr
      rw [hreads] at hev' hpins hans'
      refine ⟨k, hfinds, ?_, ?_, ?_, ?_⟩
      · intro i hi
        rw [← hansw]
        simpa using h1 i (by rwa [hreads])
      · rw [hev', huev, List.append_assoc, happ]
      · rw [hpins, pre.pins, List.drop_drop]
      · intro i
        rw [hans', hansw]
        congr 1
        omega

end Sys2Proof.Machine
end

