-- ==== Sys2Proof/Laws/Closure.lean ====
section
/-!
SUPPORT. Every meaning is a composition of a few units (a pin read, a pulse, a DIR write, a slow delay, a transmitted
line, a draw, a register write): a relation that is reflexive, transitive and kept by the units is kept by every
command. A proof about all commands then looks at the units alone.
-/

namespace Sys2Proof.Machine

/-- `R` holds across every unit and across compositions. -/
structure UnitClosed (R : State → State → Prop) : Prop where
  refl : ∀ s, R s s
  trans : ∀ {s t u}, R s t → R t u → R s u
  pinRead : ∀ s p, R s (s.pinRead p).2
  pulse : ∀ s a, R s (s.pulse a)
  setDir : ∀ s a d, R s (s.setDir a d)
  delay : ∀ s, R s (s.delay .tSlow)
  txLine : ∀ s t, R s (s.txLine t)
  drawI32 : ∀ s, R s s.drawI32.2
  drawBound : ∀ s, R s s.drawBound.2
  setLoop : ∀ s r, R s (s.setLoop r)
  setPos : ∀ s a v, R s (s.setPos a v)
  setHomed : ∀ s a v, R s (s.setHomed a v)
  setHphase : ∀ s a v, R s (s.setHphase a v)
  setSusp : ∀ s p, R s (s.setSusp p)

namespace UnitClosed

variable {R : State → State → Prop} (h : UnitClosed R)
include h

theorem completeStep (a : Axis) (t : Int) (s : State) : R s (completeStep a t s) :=
  h.trans (h.pulse s a) (h.trans (h.setPos (s.pulse a) a t) (h.setLoop ((s.pulse a).setPos a t) _))

theorem moveStart (a : Axis) (n : Int) (s : State) : R s (moveStart a n s) := by
  unfold Machine.moveStart stepBound
  have h1 := h.trans (h.setLoop s { s.loop with d := dirOf n }) (h.setDir _ a (dirOf n))
  dsimp only
  split
  · exact h.trans h1 (h.trans (h.drawBound _) (h.setLoop _ _))
  · exact h.trans h1 (h.setLoop _ _)

theorem homeFinish (a : Axis) (s : State) : R s (homeFinish a s) :=
  h.trans (h.setHphase s a .homed) (h.trans (h.setPos _ a _) (h.trans (h.setHomed _ a true) (h.setHphase _ a .idle)))

theorem moveLoop (a : Axis) (n : Nat) (s : State) : R s (moveLoop a n s) := by
  induction n generalizing s with
  | zero => exact h.refl s
  | succ n ih =>
    unfold Machine.moveLoop
    dsimp only
    split
    · exact h.pinRead s _
    · split
      · exact h.trans (h.trans (h.pinRead s _) (h.completeStep a _ _)) (ih _)
      · exact h.pinRead s _

theorem moveAxis (a : Axis) (n : Int) (s : State) : R s (moveAxis a n s).2 := by
  unfold Machine.moveAxis
  split
  · exact h.refl s
  · exact h.trans (h.moveStart a n s) (h.moveLoop a _ _)

theorem relativeMove (a : Axis) (n : Int) (s : State) : R s (relativeMove a n s) :=
  h.trans (h.moveAxis a n s) (h.txLine _ _)

theorem absoluteMove (a : Axis) (t : Int) (s : State) : R s (absoluteMove a t s) := by
  refine h.trans ?_ (h.trans (h.moveAxis a _ _) (h.txLine _ _))
  unfold absoluteDelta
  split
  · exact h.refl s
  · exact h.drawI32 s

theorem seekLoop (a : Axis) (n : Nat) (s : State) : R s (seekLoop a n s).2 := by
  induction n generalizing s with
  | zero => exact h.pinRead s _
  | succ n ih =>
    unfold Machine.seekLoop
    split
    · exact h.pinRead s _
    · exact h.pinRead s _
    · exact h.trans (h.pinRead s _) (h.trans (h.trans (h.pulse _ a) (h.setLoop _ _)) (ih _))

theorem seekPhase (a : Axis) (s : State) : R s (seekPhase a s).2 :=
  h.trans (h.setHomed s a _) (h.trans (h.setHphase _ a _) (h.trans (h.setDir _ a _) (h.trans (h.setLoop _ _)
    (h.seekLoop a _ _))))

theorem backOffLoop (a : Axis) (n : Nat) (s : State) : R s (backOffLoop a n s) := by
  induction n generalizing s with
  | zero => exact h.refl s
  | succ n ih => exact h.trans (h.setLoop s _) (h.trans (h.pulse _ a) (ih _))

theorem backOffPhase (a : Axis) (s : State) : R s (backOffPhase a s) :=
  h.trans (h.setHphase s a _) (h.trans (h.setDir _ a _) (h.trans (h.setLoop _ _) (h.backOffLoop a _ _)))

theorem reapproachStart (a : Axis) (s : State) : R s (reapproachStart a s) :=
  h.trans (h.setHphase s a _) (h.trans (h.setDir _ a _) (h.setLoop _ _))

theorem reapproachLoop (a : Axis) (n : Nat) (s : State) : R s (reapproachLoop a n s).2 := by
  induction n generalizing s with
  | zero => exact h.refl s
  | succ n ih =>
    unfold Machine.reapproachLoop
    dsimp only
    split
    · exact h.pinRead s _
    · exact h.trans (h.pinRead s _) (h.trans (h.trans (h.pulse _ a) (h.delay _)) (ih _))

theorem reapproach (a : Axis) (s : State) : R s (reapproach a s).2 := by
  unfold Machine.reapproach
  dsimp only
  split
  · exact h.trans (h.reapproachLoop a _ s) (h.homeFinish a _)
  · exact h.reapproachLoop a _ s

theorem home (a : Axis) (s : State) : R s (home a s).2 := by
  unfold Machine.home
  dsimp only
  split
  · exact h.trans (h.seekPhase a s) (h.trans (h.backOffPhase a _) (h.trans (h.reapproachStart a _) (h.reapproach a _)))
  · exact h.trans (h.seekPhase a s) (h.trans (h.setHphase _ a _) (h.setHphase _ a _))

theorem reportHome (a : Axis) (ok : Bool) (s : State) : R s (reportHome a ok s) := by
  unfold Machine.reportHome
  split
  · exact h.txLine s _
  · exact h.txLine s _

theorem homeAllEnd (p t : Bool) (s : State) : R s (homeAllEnd p t s) := by
  unfold Machine.homeAllEnd
  dsimp only
  split
  · exact h.trans (h.reportHome .tilt t s) (h.txLine _ _)
  · exact h.reportHome .tilt t s

theorem afterHome (p : Suspended) {next : Bool → State → State} (hnext : ∀ ok s, R s (next ok s)) {s : State}
    {r : HomeStatus × State} (hr : R s r.2) : R s (afterHome p next r) := by
  unfold Machine.afterHome
  split
  · exact h.trans hr (hnext _ _)
  · exact h.trans hr (hnext _ _)
  · exact h.trans hr (h.setSusp _ _)

theorem homeAllTilt (p : Bool) (s : State) : R s (homeAllTilt p s) :=
  h.afterHome _ (h.homeAllEnd p) (h.trans (h.txLine s _) (h.home .tilt _))

theorem homeAllAfterPan (p : Bool) (s : State) : R s (homeAllAfterPan p s) := by
  unfold Machine.homeAllAfterPan
  dsimp only
  split
  · exact h.reportHome .pan p s
  · exact h.trans (h.reportHome .pan p s) (h.homeAllTilt p _)

theorem rest (p : Suspended) (ok : Bool) (s : State) : R s (p.rest ok s) := by
  cases p with
  | homePan => exact h.reportHome .pan ok s
  | homeTilt => exact h.reportHome .tilt ok s
  | homeAllPan => exact h.homeAllAfterPan ok s
  | homeAllTilt q => exact h.homeAllEnd q ok s

theorem continueCommand (p : Suspended) (s : State) : R s (continueCommand p s) :=
  h.afterHome p (h.rest p) (h.trans (h.setSusp s none) (h.reapproach p.axis _))

/-- What the units keep, every command keeps. -/
theorem exec {i : Instr} {s t : State} (he : exec i s = .next t) : R s t := by
  cases i <;> injection he with he <;> subst he
  · exact h.relativeMove .pan _ s
  · exact h.relativeMove .tilt _ s
  · exact h.absoluteMove .pan _ s
  · exact h.absoluteMove .tilt _ s
  · exact h.afterHome _ (h.reportHome .pan) (h.trans (h.txLine s _) (h.home .pan _))
  · exact h.afterHome _ (h.reportHome .tilt) (h.trans (h.txLine s _) (h.home .tilt _))
  · exact h.afterHome _ h.homeAllAfterPan (h.trans (h.txLine s _) (h.home .pan _))
  · exact h.trans (h.moveAxis .pan _ s) (h.trans (h.moveAxis .tilt _ _) (h.txLine _ _))
  · exact h.txLine s _
  · exact h.trans (h.pinRead s _) (h.trans (h.pinRead _ _) (h.trans (h.pinRead _ _) (h.trans (h.pinRead _ _)
      (h.txLine _ _))))
  · exact h.txLine s _
  · exact h.txLine s _

end UnitClosed

end Sys2Proof.Machine
end

