-- ==== Sys2Proof/Laws/Text.lean ====
section
/-!
SUPPORT. Decimal text: what dec writes is read back, and it is printable (spec 40_dispatch.md R147, 30_encoding.md
R112).
-/

namespace Sys2Proof.Machine

theorem digitByte_toNat {d : Nat} (h : d < 10) : (digitByte d).toNat = 0x30 + d := by
  simp [digitByte]
  omega

theorem isDigit_digitByte {d : Nat} (h : d < 10) : isDigit (digitByte d) = true := by
  simp [isDigit, digitByte_toNat h]
  omega

theorem isPrintable_digitByte {d : Nat} (h : d < 10) : isPrintable (digitByte d) = true := by
  simp [isPrintable, digitByte_toNat h]
  omega

/-- Reading digits is folding them in from the left, and it goes on to the end. -/
theorem readDigits_map (ds : List Nat) (m : Nat) (h : ∀ d ∈ ds, d < 10) :
    readDigits m (ds.map digitByte) = ds.foldl (fun m d => 10 * m + d) m := by
  induction ds generalizing m with
  | nil => rfl
  | cons d ds ih =>
    have hd := h d (by simp)
    simp only [List.map_cons, readDigits, isDigit_digitByte hd, if_true, digitByte_toNat hd, List.foldl_cons]
    rw [show 48 + d - 48 = d by omega]
    exact ih _ fun x hx => h x (by simp [hx])

/-- The decimal digits of `n`, most significant first (`[0]` for 0). -/
def digitsOf (n : Nat) : List Nat := if n = 0 then [0] else (Nat.digits 10 n).reverse

theorem decNat_eq (n : Nat) : decNat n = (digitsOf n).map digitByte := by
  unfold decNat digitsOf
  split <;> rfl

theorem digitsOf_lt (n : Nat) : ∀ d ∈ digitsOf n, d < 10 := by
  unfold digitsOf
  split
  · simp
  · intro d hd
    exact Nat.digits_lt_base (by omega) (by simpa using hd)

theorem foldl_digitsOf (n : Nat) : (digitsOf n).foldl (fun m d => 10 * m + d) 0 = n := by
  unfold digitsOf
  split
  · simp_all
  · rw [List.foldl_reverse]
    conv_rhs => rw [← Nat.ofDigits_digits 10 n]
    rw [Nat.ofDigits_eq_foldr]
    congr 1
    funext d m
    simp [Nat.add_comm]

theorem readDigits_decNat (n : Nat) : readDigits 0 (decNat n) = n := by
  rw [decNat_eq, readDigits_map _ _ (digitsOf_lt n), foldl_digitsOf]

theorem decNat_ne_nil (n : Nat) : decNat n ≠ [] := by
  unfold decNat
  split
  · simp
  · simpa [Nat.digits_eq_nil_iff_eq_zero] using ‹¬n = 0›

/-- The first byte of a decimal text is a digit: no space and no sign. -/
theorem decNat_head (n : Nat) : ∃ b t, decNat n = b :: t ∧ isDigit b = true := by
  cases h : decNat n with
  | nil => exact absurd h (decNat_ne_nil n)
  | cons b t =>
    refine ⟨b, t, rfl, ?_⟩
    rw [decNat_eq] at h
    cases hd : digitsOf n with
    | nil => simp [hd] at h
    | cons d ds =>
      rw [hd] at h
      simp only [List.map_cons, List.cons.injEq] at h
      rw [← h.1]
      exact isDigit_digitByte (digitsOf_lt n d (by simp [hd]))

theorem isDigit_ne {b c : Byte} (h : isDigit b = true) (hc : isDigit c = false) : b ≠ c := by
  rintro rfl
  simp [h] at hc

/-- `parse_int` reads back what `dec` writes, before its range test. -/
theorem parseValue_dec (v : Int) : parseValue (dec v) = v := by
  obtain ⟨b, t, hbt, hb⟩ := decNat_head v.natAbs
  have hsp : b ≠ 0x20 := isDigit_ne hb (by decide)
  have hmi : b ≠ 0x2D := isDigit_ne hb (by decide)
  have hpl : b ≠ 0x2B := isDigit_ne hb (by decide)
  have hread := readDigits_decNat v.natAbs
  unfold dec
  split
  · have hskip : skipSpaces (0x2D :: decNat v.natAbs) = 0x2D :: decNat v.natAbs := by
      simp [skipSpaces]
    simp only [parseValue, hskip, if_true, hread]
    omega
  · have hskip : skipSpaces (decNat v.natAbs) = b :: t := by
      rw [hbt]
      simpa [skipSpaces] using hsp
    rw [hbt] at hread
    simp only [parseValue, hskip, if_neg hmi, if_neg hpl, hread]
    omega

theorem all_isPrintable_decNat (n : Nat) : (decNat n).all isPrintable = true := by
  rw [decNat_eq, List.all_eq_true]
  intro b hb
  obtain ⟨d, hd, rfl⟩ := List.mem_map.1 hb
  exact isPrintable_digitByte (digitsOf_lt n d hd)

theorem all_isPrintable_dec (v : Int) : (dec v).all isPrintable = true := by
  unfold dec
  split
  · simp only [List.all_cons, all_isPrintable_decNat, Bool.and_true]
    decide
  · exact all_isPrintable_decNat _

end Sys2Proof.Machine
end

