-- ==== Sys2Proof/Laws/PerInstr.lean ====
section
/-!
SUPPORT. Families of statements made per instruction, one lemma per constructor of Instr.
-/

open Sys2Proof.Machine

/-- The line of a well-formed command is a line: not empty, every byte printable (spec 30_encoding.md R100). -/
def Sys2Proof.Laws.EncodePrintable.Statement (i : Sys2Proof.Instr) : Prop :=
  i.wellFormed = true → Sys2Proof.encode i ≠ [] ∧ (Sys2Proof.encode i).all isPrintable = true

theorem Sys2Proof.Laws.EncodePrintable.of_prefix (pre : List Sys2Proof.Byte) (n : Int) (hne : pre ≠ [])
    (hp : pre.all isPrintable = true) : pre ++ dec n ≠ [] ∧ (pre ++ dec n).all isPrintable = true := by
  simp [hne, hp, all_isPrintable_dec]

theorem Sys2Proof.Laws.EncodePrintable.panRel (n : Int) :
    Sys2Proof.Laws.EncodePrintable.Statement (.panRel n) :=
  fun _ => Sys2Proof.Laws.EncodePrintable.of_prefix prefixPanRel n (by decide) (by decide)

theorem Sys2Proof.Laws.EncodePrintable.tiltRel (n : Int) :
    Sys2Proof.Laws.EncodePrintable.Statement (.tiltRel n) :=
  fun _ => Sys2Proof.Laws.EncodePrintable.of_prefix prefixTiltRel n (by decide) (by decide)

theorem Sys2Proof.Laws.EncodePrintable.panAbs (t : Int) :
    Sys2Proof.Laws.EncodePrintable.Statement (.panAbs t) :=
  fun _ => Sys2Proof.Laws.EncodePrintable.of_prefix prefixPanAbs t (by decide) (by decide)

theorem Sys2Proof.Laws.EncodePrintable.tiltAbs (t : Int) :
    Sys2Proof.Laws.EncodePrintable.Statement (.tiltAbs t) :=
  fun _ => Sys2Proof.Laws.EncodePrintable.of_prefix prefixTiltAbs t (by decide) (by decide)

theorem Sys2Proof.Laws.EncodePrintable.homePan : Sys2Proof.Laws.EncodePrintable.Statement .homePan :=
  fun _ => by decide

theorem Sys2Proof.Laws.EncodePrintable.homeTilt : Sys2Proof.Laws.EncodePrintable.Statement .homeTilt :=
  fun _ => by decide

theorem Sys2Proof.Laws.EncodePrintable.homeAll : Sys2Proof.Laws.EncodePrintable.Statement .homeAll :=
  fun _ => by decide

theorem Sys2Proof.Laws.EncodePrintable.center : Sys2Proof.Laws.EncodePrintable.Statement .center :=
  fun _ => by decide

theorem Sys2Proof.Laws.EncodePrintable.getPos : Sys2Proof.Laws.EncodePrintable.Statement .getPos :=
  fun _ => by decide

theorem Sys2Proof.Laws.EncodePrintable.getStatus : Sys2Proof.Laws.EncodePrintable.Statement .getStatus :=
  fun _ => by decide

theorem Sys2Proof.Laws.EncodePrintable.ping : Sys2Proof.Laws.EncodePrintable.Statement .ping :=
  fun _ => by decide

theorem Sys2Proof.Laws.EncodePrintable.unknown (text : List Sys2Proof.Byte) :
    Sys2Proof.Laws.EncodePrintable.Statement (.unknown text) := by
  intro h
  obtain ⟨hline, -⟩ := Bool.and_eq_true_iff.1 h
  obtain ⟨hne, hall⟩ := Bool.and_eq_true_iff.1 hline
  exact ⟨by simpa [Sys2Proof.encode] using hne, hall⟩
end

