-- ==== Sys2Proof/Laws/Step.lean ====
section
/-!
SUPPORT. What a step can do, said once, and what the parts of the Dispatch Loop keep (spec 40_dispatch.md R140 to
R145).
-/

namespace Sys2Proof.Machine

/-- What `execute(cmd)` does to the state; it always ends in a next state (60_exceptions.md R270). -/
theorem exec_next (i : Instr) (s : State) : ∃ t, exec i s = .next t := by
  cases i <;> exact ⟨_, rfl⟩

/-- `runLine` on a line that decodes. -/
theorem runLine_of_decode {line : List Byte} {s t : State} {i : Instr} (hd : decode (lineDraw line s).1 line = .ok i)
    (he : exec i (lineDraw line s).2.beginCommand = .next t) : runLine line s = .next t.endCommand := by
  simp [runLine, hd, he]

/-- What `runLine` can answer. -/
theorem runLine_next {line : List Byte} {s t : State} (h : runLine line s = .next t) :
    ∃ i u, decode (lineDraw line s).1 line = .ok i ∧ exec i (lineDraw line s).2.beginCommand = .next u ∧
      t = u.endCommand := by
  unfold runLine at h
  split at h
  · simp at h
  · simp at h
  · rename_i i hd
    obtain ⟨u, hu⟩ := exec_next i (lineDraw line s).2.beginCommand
    rw [hu] at h
    exact ⟨i, u, hd, hu, by simpa using h.symm⟩

/-- The four things a step that answers a next state can have done. -/
inductive StepDone (s t : State) : Prop
  /-- Boot (70_reset_and_hazards.md R322). -/
  | booted (hm : s.mphase = .boot) (ht : t = bootStep s)
  /-- A read of `ready` that returned 0 (R141). -/
  | polled (hm : s.mphase = .poll) (hr : s.preempt.ready = false) (ht : t = s.preempt)
  /-- A command (R142 to R145). -/
  | ran (hm : s.mphase = .poll) (hr : s.preempt.ready = true) (line : List Byte) (i : Instr) (u : State)
      (hf : s.preempt.fetch = some line) (hd : decode (lineDraw line s.preempt).1 line = .ok i)
      (he : exec i (lineDraw line s.preempt).2.beginCommand = .next u) (ht : t = u.endCommand)
  /-- More of a suspended command, or the release that was left (log 14, 15). -/
  | continued (hm : s.mphase = .exec) (ht : t = execStep s)

theorem step_cases {s t : State} (h : step s = .next t) : StepDone s t := by
  unfold step at h
  split at h
  · simp at h
  · unfold phaseStep at h
    split at h
    · rename_i hm
      exact .booted hm (by simpa using h.symm)
    · rename_i hm
      unfold pollStep at h
      split at h
      · rename_i hr
        split at h
        · simp at h
        · rename_i line hf
          obtain ⟨i, u, hd, he, ht⟩ := runLine_next h
          exact .ran hm hr line i u hf hd he ht
      · rename_i hr
        exact .polled hm (by simpa using hr) (by simpa using h.symm)
    · rename_i hm
      exact .continued hm (by simpa using h.symm)

/-! The parts of the loop. -/

@[simp] theorem lineDraw_cfg (line : List Byte) (s : State) : (lineDraw line s).2.cfg = s.cfg := by
  unfold lineDraw
  split <;> simp
@[simp] theorem lineDraw_pos (line : List Byte) (s : State) : (lineDraw line s).2.pos = s.pos := by
  unfold lineDraw
  split <;> simp
@[simp] theorem lineDraw_homed (line : List Byte) (s : State) : (lineDraw line s).2.homed = s.homed := by
  unfold lineDraw
  split <;> simp
@[simp] theorem lineDraw_buf (line : List Byte) (s : State) : (lineDraw line s).2.buf = s.buf := by
  unfold lineDraw
  split <;> simp
@[simp] theorem lineDraw_cur (line : List Byte) (s : State) : (lineDraw line s).2.cur = s.cur := by
  unfold lineDraw
  split <;> simp
@[simp] theorem lineDraw_ready (line : List Byte) (s : State) : (lineDraw line s).2.ready = s.ready := by
  unfold lineDraw
  split <;> simp
@[simp] theorem lineDraw_stepOut (line : List Byte) (s : State) : (lineDraw line s).2.stepOut = s.stepOut := by
  unfold lineDraw
  split <;> simp
@[simp] theorem lineDraw_dirOut (line : List Byte) (s : State) : (lineDraw line s).2.dirOut = s.dirOut := by
  unfold lineDraw
  split <;> simp
@[simp] theorem lineDraw_hphase (line : List Byte) (s : State) : (lineDraw line s).2.hphase = s.hphase := by
  unfold lineDraw
  split <;> simp
@[simp] theorem lineDraw_trace (line : List Byte) (s : State) : (lineDraw line s).2.trace = s.trace := by
  unfold lineDraw
  split <;> simp
@[simp] theorem lineDraw_pins (line : List Byte) (s : State) : (lineDraw line s).2.env.pins = s.env.pins := by
  unfold lineDraw
  split <;> simp

/-- A line without an out-of-range number takes no draw. -/
theorem lineDraw_of_not_needsDraw {line : List Byte} {s : State} (h : needsDraw line = false) :
    lineDraw line s = (0, s) := by
  simp [lineDraw, h]

theorem State.endCommand_of_none {t : State} (h : t.susp = none) : t.endCommand = t.release := by
  simp [State.endCommand, h]

theorem State.endCommand_of_some {t : State} {p : Suspended} (h : t.susp = some p) : t.endCommand = t := by
  simp [State.endCommand, h]

@[simp] theorem State.release_ready (s : State) : s.release.ready = false := rfl
@[simp] theorem State.release_mphase (s : State) : s.release.mphase = .poll := rfl
@[simp] theorem State.release_cfg (s : State) : s.release.cfg = s.cfg := by simp [State.release]
@[simp] theorem State.release_pos (s : State) : s.release.pos = s.pos := by simp [State.release]
@[simp] theorem State.release_homed (s : State) : s.release.homed = s.homed := by simp [State.release]
@[simp] theorem State.release_stepOut (s : State) : s.release.stepOut = s.stepOut := by simp [State.release]
@[simp] theorem State.release_dirOut (s : State) : s.release.dirOut = s.dirOut := by simp [State.release]
@[simp] theorem State.release_hphase (s : State) : s.release.hphase = s.hphase := by simp [State.release]
@[simp] theorem State.release_loop (s : State) : s.release.loop = s.loop := by simp [State.release]
@[simp] theorem State.release_susp (s : State) : s.release.susp = s.susp := by simp [State.release]
@[simp] theorem State.release_mainTrace (s : State) : s.release.mainTrace = s.mainTrace := by simp [State.release]
theorem State.release_buf {s : State} (h : s.ready = true) : s.release.buf = s.buf := by
  simp [State.release, State.preempt_buf h]
theorem State.release_cur {s : State} (h : s.ready = true) : s.release.cur = s.cur := by
  simp [State.release, State.preempt_cur h]

/-! Runs (R152). -/

theorem run_succ {s t : State} (n : Nat) (h : step s = .next t) :
    Sys2Proof.core.run (n + 1) s = Sys2Proof.core.run n t := by
  have hcore : Sys2Proof.core.step s = .next t := h
  simp [Host.Core.run, hcore]

/-- A run of `n + 1` steps that answers next is one step and a run of `n`. -/
theorem run_succ_next {s t : State} (n : Nat) (h : Sys2Proof.core.run (n + 1) s = .next t) :
    ∃ u, step s = .next u ∧ Sys2Proof.core.run n u = .next t := by
  cases hcore : Sys2Proof.core.step s with
  | next u => exact ⟨u, hcore, by simpa [Host.Core.run, hcore] using h⟩
  | fault r => simp [Host.Core.run, hcore] at h
  | refused r => simp [Host.Core.run, hcore] at h

/-- What holds of every step that answers next, and is kept, holds of every run. -/
theorem run_induction (P : State → Prop) (hstep : ∀ s t, P s → step s = .next t → P t) (n : Nat) {s t : State}
    (hs : P s) (h : Sys2Proof.core.run n s = .next t) : P t := by
  induction n generalizing s with
  | zero =>
    cases h
    exact hs
  | succ n ih =>
    obtain ⟨u, hu, hrest⟩ := run_succ_next n h
    exact ih (hstep s u hs hu) hrest

end Sys2Proof.Machine
end

