-- ==== Sys2Proof/Tests/Slice0.lean ====
section
/-!
SUPPORT. Tests on fixed values, with expected results from the tables and programs of spec 95_test_vectors.md and the
sample table of 30_encoding.md R114, and for each obligation with hypotheses a state that meets them.
-/

open Sys2Proof Sys2Proof.Machine

namespace Sys2Proof.Tests

/-! ## The states the tests run on -/

/-- The example configuration `CFG-T` (95_test_vectors.md section 0). -/
def cfgT : Config where
  softMin := ⟨0, -800⟩
  softMax := ⟨4200, 800⟩
  homeRef := ⟨0, -800⟩
  polarity := ⟨.normal, .normal⟩
  seekCeiling := ⟨5000, 2000⟩
  backoffSteps := 2
  tDirSettle := 1
  tStep := 1
  tSlow := 1
  rxCap := 32
  txEol := [0x0A]
  seekTie := .limitWins
  homeAllPolicy := .attemptBothReportIfAll

/-- `CFG-T` with other seek ceilings, tie order and `HOME_ALL` policy. -/
def cfgSeek (pan tilt : Nat) (tie : SeekTie) (policy : HomeAllPolicy) : Config :=
  { cfgT with seekCeiling := ⟨pan, tilt⟩, seekTie := tie, homeAllPolicy := policy }

/-- Polling, with nothing pending and the buffer all NULs; ENV answers `pins` and delivers nothing. -/
def polling (c : Config) (pins : List Bit) : State :=
  { State.reset with
    cfg := c, mphase := .poll, dirOut := ⟨false, false⟩, buf := (List.range c.rxCap).map fun i => (i, 0x00)
    env := { State.reset.env with endless := false, pins := pins } }

/-- The line `text` pending and MAIN about to read `ready`. -/
def pendingLine (c : Config) (text : List Byte) (pins : List Bit) : State := (polling c pins).placeLine text

/-- Inside a command, which is `PING` as the mailbox has it. -/
def running (c : Config) (pins : List Bit) : State := (pendingLine c (ascii "PING") pins).beginCommand

/-- `running` with other positions. -/
def runningAt (p t : Int) (pins : List Bit) : State := { running cfgT pins with pos := ⟨p, t⟩ }

/-- A suspended command in the slow re-approach of its axis. -/
def suspendedAt (c : Config) (p : Suspended) (pins : List Bit) : State :=
  (((running c pins).setSusp (some p)).setHphase p.axis .reapproachingSlow)

/-- The state an outcome carries. -/
def stateOf : Host.Outcome State Fault Refusal → State
  | .next t => t
  | .fault _ => State.reset
  | .refused _ => State.reset

/-- The state after a command. -/
def after (i : Instr) (s : State) : State := stateOf (exec i s)

/-- The `Tx` events of a text. -/
def tx (text : String) : List Event := (ascii text).map Event.tx

/-! ## Well-formedness: each check refuses an ill-formed term -/

theorem test_wellFormed_operand_too_big : (Instr.panRel 2147483648).wellFormed = false := by decide
theorem test_wellFormed_operand_too_small : (Instr.tiltRel (-2147483649)).wellFormed = false := by decide
theorem test_wellFormed_target_too_big : (Instr.panAbs 2147483648).wellFormed = false := by decide
theorem test_wellFormed_target_too_small : (Instr.tiltAbs (-2147483649)).wellFormed = false := by decide
theorem test_wellFormed_empty_text : (Instr.unknown []).wellFormed = false := by decide
theorem test_wellFormed_unprintable_text : (Instr.unknown [0x41, 0x09]).wellFormed = false := by decide
theorem test_wellFormed_text_of_prefix_row : (Instr.unknown (ascii "PAN_REL:x")).wellFormed = false := by decide
theorem test_wellFormed_text_of_literal_row : (Instr.unknown (ascii "PING")).wellFormed = false := by decide
theorem test_wellFormed_limits :
    (Instr.panRel (-2147483648)).wellFormed = true ∧ (Instr.panAbs 2147483647).wellFormed = true ∧
    (Instr.unknown (ascii "PINGPING")).wellFormed = true := by decide

/-! ## Decoding, from the hex column of 30_encoding.md R108 (first byte first) -/

theorem test_decode_panRel :
    decode 0 [0x50, 0x41, 0x4E, 0x5F, 0x52, 0x45, 0x4C, 0x3A, 0x35, 0x30] = .ok (.panRel 50) := by decide
theorem test_decode_tiltRel :
    decode 0 [0x54, 0x49, 0x4C, 0x54, 0x5F, 0x52, 0x45, 0x4C, 0x3A, 0x2D, 0x33, 0x30] = .ok (.tiltRel (-30)) := by
  decide
theorem test_decode_panAbs :
    decode 0 [0x50, 0x41, 0x4E, 0x5F, 0x41, 0x42, 0x53, 0x3A, 0x2D, 0x35] = .ok (.panAbs (-5)) := by decide
theorem test_decode_tiltAbs :
    decode 0 [0x54, 0x49, 0x4C, 0x54, 0x5F, 0x41, 0x42, 0x53, 0x3A, 0x31, 0x30, 0x30] = .ok (.tiltAbs 100) := by decide
theorem test_decode_homePan : decode 0 [0x48, 0x4F, 0x4D, 0x45, 0x5F, 0x50, 0x41, 0x4E] = .ok .homePan := by decide
theorem test_decode_homeTilt :
    decode 0 [0x48, 0x4F, 0x4D, 0x45, 0x5F, 0x54, 0x49, 0x4C, 0x54] = .ok .homeTilt := by decide
theorem test_decode_homeAll : decode 0 [0x48, 0x4F, 0x4D, 0x45, 0x5F, 0x41, 0x4C, 0x4C] = .ok .homeAll := by decide
theorem test_decode_center : decode 0 [0x43, 0x45, 0x4E, 0x54, 0x45, 0x52] = .ok .center := by decide
theorem test_decode_getPos : decode 0 [0x47, 0x45, 0x54, 0x5F, 0x50, 0x4F, 0x53] = .ok .getPos := by decide
theorem test_decode_getStatus :
    decode 0 [0x47, 0x45, 0x54, 0x5F, 0x53, 0x54, 0x41, 0x54, 0x55, 0x53] = .ok .getStatus := by decide
theorem test_decode_ping : decode 0 [0x50, 0x49, 0x4E, 0x47] = .ok .ping := by decide
theorem test_decode_unknown :
    decode 0 [0x46, 0x4F, 0x4F, 0x5F, 0x42, 0x41, 0x52] = .ok (.unknown (ascii "FOO_BAR")) := by decide

/-- Lines near a row that match none (V-D13, V-D15 to V-D17, V-D20). -/
theorem test_decode_near_misses :
    (["HOME_PAN ", "HOME_PANX", "HOME_PA", "PAN_REL", "PAN_REL 5", "pan_rel:5", " PING", "PINGPING", "ping",
      "GET_STAT", "GET_POSITION", "HOME", " "].map ascii).all
        (fun t => decide (decode 0 t = .ok (.unknown t))) = true := by decide

/-- What is no line is rejected by name (R100, R116). -/
theorem test_decode_rejects :
    decode 0 [] = .error .emptyLine ∧ decode 0 [0x50, 0x09] = .error .unprintable := by decide

/-- The opcode table's numbering: the first byte is bits 7..0; `PING` and its NUL, 40 bits. -/
theorem test_decodeTableWord_ping : decodeTableWord 40 0x00474E4950 = some .ping := by decide

/-- The sample table of `parse_int` (30_encoding.md R114); the draw is 7. -/
theorem test_parseInt_samples :
    (["50", "-30", "0", "", "-0", "+7", "007", " 42", "   42", "- 5", "--5", "abc", "12abc", "4200.5", "5 ",
      "2147483647", "-2147483648"].map fun t => parseInt 7 (ascii t)) =
      [50, -30, 0, 0, 0, 7, 7, 42, 42, 0, 0, 0, 12, 4200, 5, 2147483647, -2147483648] := by decide

/-- Out of range, either way: the draw (R113). -/
theorem test_parseInt_out_of_range :
    parseInt 7 (ascii "2147483648") = 7 ∧ parseInt 0xFFFFFFFF (ascii "-99999999999") = -1 := by decide

theorem test_dec : dec 0 = [0x30] ∧ dec 50 = [0x35, 0x30] ∧ dec (-30) = [0x2D, 0x33, 0x30] := by decide

/-! ## The Frame Receiver (V-F1 to V-F15) -/

theorem test_receive_builds_a_line :
    ((polling cfgT []).deliver [0x50, 0x08, 0x49, 0x4E, 0x47, 0x0A]).fetch = some (ascii "PING") ∧
    ((polling cfgT []).deliver [0x50, 0x08, 0x49, 0x4E, 0x47, 0x0A]).ready = true := by decide

/-- `RX_CAP = 4`: the fourth byte is dropped and the NUL goes to index 3 (V-F11, V-F12). -/
theorem test_receive_full :
    ((polling { cfgT with rxCap := 4, capOk := by decide } []).deliver [0x41, 0x42, 0x43, 0x44, 0x0D]).fetch = some (ascii "ABC") := by
  decide

/-! ## The commands, one step each -/

/-- V-M7. -/
theorem test_panRel_hard_stop :
    (after (.panRel (-30)) (runningAt 100 0 (List.replicate 12 true ++ [false]))).pos = ⟨88, 0⟩ := by decide +kernel

theorem test_panRel_trace :
    (after (.panRel 1) (running cfgT [true])).mainTrace =
      [.pinSet (.dir .pan), .delay .tDirSettle, .pinRead (.pos .pan) true, .pinSet (.step .pan), .delay .tStep,
        .pinClear (.step .pan), .delay .tStep] ++ tx "OK PAN:1\n" := by decide +kernel

/-- V-C3 with three steps. -/
theorem test_tiltRel_down : (after (.tiltRel (-3)) (running cfgT [true, true, true])).mainTrace.drop 17 =
    tx "OK TILT:-3\n" := by decide +kernel

/-- V-C4. -/
theorem test_tiltRel_zero : (after (.tiltRel 0) (running cfgT [])).mainTrace = tx "OK TILT:0\n" := by decide +kernel

/-- V-M5 as an absolute move: the soft stop takes one read more than steps. -/
theorem test_panAbs_soft_stop :
    (after (.panAbs 5000) (runningAt 4190 0 (List.replicate 11 true))).pos.pan = 4200 ∧
    (after (.panAbs 5000) (runningAt 4190 0 (List.replicate 11 true))).env.pins = [] := by decide +kernel

/-- S3 and V-M3: DIR is written, one read, no pulse. -/
theorem test_panAbs_below_zero :
    (after (.panAbs (-5)) (running cfgT [true])).mainTrace =
      [.pinClear (.dir .pan), .delay .tDirSettle, .pinRead (.neg .pan) true] ++ tx "OK PAN:0\n" := by decide +kernel

/-- V-C12: the delta is out of range, so it is drawn; here the draw is 2. -/
theorem test_tiltAbs_drawn_delta :
    (after (.tiltAbs 2147483647)
      ((runningAt 0 (-10) [true, true]).setEnv { (runningAt 0 (-10) [true, true]).env with ints := [2] })).pos =
      ⟨0, -8⟩ := by decide +kernel

theorem test_tiltAbs_inverted :
    (after (.tiltAbs 2) (running { cfgT with polarity := ⟨.normal, .inverted⟩ } [true, false])).mainTrace =
      [.pinClear (.dir .tilt), .delay .tDirSettle, .pinRead (.pos .tilt) true, .pinSet (.step .tilt), .delay .tStep,
        .pinClear (.step .tilt), .delay .tStep, .pinRead (.pos .tilt) false] ++ tx "OK TILT:1\n" := by decide +kernel

/-- V-M14: the bound of `-2^31` is drawn, here 3. -/
theorem test_panRel_drawn_bound :
    (after (.panRel (-2147483648))
      ((runningAt 10 0 [true, true, true]).setEnv { (runningAt 10 0 [true, true, true]).env with bounds := [3] })).pos =
      ⟨7, 0⟩ := by decide +kernel

/-- V-H1. -/
theorem test_homePan_ok :
    (after .homePan (running cfgT [true, true, true, false, true, true, false])).homed = ⟨true, false⟩ := by decide +kernel

/-- V-H1 with shorter phases (one seek pulse, one slow pulse). -/
theorem test_homePan_trace :
    (after .homePan (running cfgT [true, false, true, false])).mainTrace =
      tx "HOMING PAN...\n" ++
      [.pinClear (.dir .pan), .delay .tDirSettle, .pinRead (.neg .pan) true] ++ pulseEvents .pan ++
      [.pinRead (.neg .pan) false, .pinSet (.dir .pan), .delay .tDirSettle] ++ pulseEvents .pan ++ pulseEvents .pan ++
      [.pinClear (.dir .pan), .delay .tDirSettle, .pinRead (.neg .pan) true] ++ pulseEvents .pan ++
      [.delay .tSlow, .pinRead (.neg .pan) false] ++ tx "PAN HOMED\n" := by decide +kernel

/-- V-H3. -/
theorem test_homeTilt_ok :
    (after .homeTilt (runningAt 0 5 [true, false, true, false])).pos = ⟨0, -800⟩ := by decide +kernel

/-- V-H6 on tilt: at the ceiling the counter test wins under TimeoutWins. -/
theorem test_homeTilt_tie :
    (after .homeTilt (running (cfgSeek 3 1 .timeoutWins .stopAtFirstFailure) [true, false])).mainTrace.drop 23 =
      tx "ERROR: TILT NEG LIMIT NOT FOUND\n" := by decide +kernel

/-- V-A3 under AttemptBothAlwaysReport. -/
theorem test_homeAll_always_report :
    (after .homeAll (running (cfgSeek 0 4 .limitWins .attemptBothAlwaysReport) [true, false, false])).homed =
      ⟨false, true⟩ := by decide +kernel

/-- V-A3 under StopAtFirstFailure: tilt is not attempted. -/
theorem test_homeAll_stop :
    (after .homeAll (running (cfgSeek 0 4 .limitWins .stopAtFirstFailure) [true])).mainTrace =
      tx "HOMING PAN...\n" ++ [.pinClear (.dir .pan), .delay .tDirSettle, .pinRead (.neg .pan) true] ++
      tx "ERROR: PAN NEG LIMIT NOT FOUND\n" := by decide +kernel

/-- V-C13 with fewer steps, and V-C15: a shortfall shows nowhere but in `pos`. -/
theorem test_center :
    (after .center (runningAt 3 (-2) (List.replicate 5 true))).pos = ⟨0, 0⟩ ∧
    (after .center (runningAt 5 0 [true, true, false])).pos = ⟨3, 0⟩ := by decide +kernel

/-- V-C14. -/
theorem test_center_at_origin : (after .center (running cfgT [])).mainTrace = tx "CENTERED\n" := by decide +kernel

/-- V-Q2. -/
theorem test_getPos : (after .getPos (runningAt 50 (-30) [])).mainTrace = tx "POS PAN:50 TILT:-30\n" := by decide +kernel

/-- V-Q5. -/
theorem test_getStatus :
    (after .getStatus ((running cfgT [true, false, true, true]).setHomed .tilt true)).mainTrace.drop 4 =
      tx "STATUS PN:0 PP:1 TN:0 TP:0 PH:0 TH:1\n" := by decide +kernel

/-- V-Q6. -/
theorem test_ping : (after .ping (running cfgT [])).mainTrace = tx "PONG\n" := by decide +kernel

/-- V-Q7. -/
theorem test_unknown : (after (.unknown (ascii "FOO_BAR")) (running cfgT [])).mainTrace = tx "ERROR:FOO_BAR\n" := by
  decide +kernel

/-! ## The cycle -/

/-- Program 3 step A: bytes that come while a command runs are lost, and the mailbox is free after it. -/
theorem test_step_loses_input :
    ((stateOf (step ((pendingLine cfgT (ascii "PING") []).setEnv
      { (polling cfgT []).env with arrivals := [[], ascii "GET_POS\n"] }))).mainTrace =
        tx "PONG\n") ∧
    (stateOf (step ((pendingLine cfgT (ascii "PING") []).setEnv
      { (polling cfgT []).env with arrivals := [[], ascii "GET_POS\n"] }))).ready = false := by
  decide +kernel

/-- Boot: `READY`. -/
theorem test_step_boot :
    (stateOf (step ((polling cfgT []).setMphase .boot))).mainTrace = tx "READY\n" := by decide +kernel

/-- V-H10: the re-approach goes on while the script answers 1; the command stays suspended with `ready = 1`. -/
theorem test_step_suspends :
    (stateOf (step (pendingLine cfgT (ascii "HOME_PAN") [false, true, true, true]))).susp = some .homePan ∧
    (stateOf (step (pendingLine cfgT (ascii "HOME_PAN") [false, true, true, true]))).ready = true := by decide +kernel

/-! ## For each obligation with hypotheses, a state that meets them (per clause, at boundary values) -/

theorem witness_BootSendsReadyOnce :
    (∃ s : State, s.mphase = .boot ∧ s.cursorBad = false) ∧ (∃ s t : State, step s = .next t) :=
  ⟨⟨(polling cfgT []).setMphase .boot, by decide, by decide⟩, polling cfgT [], _, rfl⟩

theorem witness_QuiescentPollChangesNothing :
    (∃ s : State, Quiescent s ∧ s.cur < s.cfg.rxCap ∧ s.env.arrivals = []) ∧
    (∃ s : State, Quiescent s ∧ s.cur < s.cfg.rxCap ∧ s.env.arrivals ≠ []) :=
  ⟨⟨polling cfgT [], ⟨rfl, rfl, by decide⟩, by decide, rfl⟩,
    (polling cfgT []).setEnv { (polling cfgT []).env with arrivals := [[], []] }, ⟨rfl, rfl, by decide⟩, by decide, by decide⟩

/-- `PING` on the wire, the whole of a finite input: one step, and the machine is quiescent. -/
theorem witness_CompleteRunHasOneResult :
    ∃ s t : State, CompleteRun s 1 t ∧ RunInv s ∧ t.cur < t.cfg.rxCap ∧ t.mainTrace = tx "PONG\n" :=
  ⟨(polling cfgT []).setEnv { (polling cfgT []).env with arrivals := [ascii "PING\n"] }, _,
    ⟨rfl, ⟨by decide +kernel, by decide +kernel, by decide +kernel⟩, by
      intro m u hm hu hq
      obtain rfl : m = 0 := by omega
      cases hu
      exact absurd hq.2.2 (by decide)⟩,
    { canonical := by decide
      whole := by decide
      cursor := by decide
      pending := fun h => absurd h (by decide)
      assembling := fun _ i hi => absurd hi (Nat.not_lt_zero i)
      soft := fun a => by cases a <;> decide
      stepLow := fun a => by cases a <;> rfl
      execSuspended := by decide
      execReady := fun h => absurd h (by decide)
      suspended := fun _ hp => by cases hp
      idle := fun _ => by decide },
    by decide +kernel, by decide +kernel⟩

theorem witness_StepRunsDecodedInstruction_completes :
    ∃ (s t : State) (line : List Byte) (i : Instr), s.mphase = .poll ∧ s.ready = true ∧ s.fetch = some line ∧
      decode (lineDraw line s.preempt).1 line = .ok i ∧
      exec i (lineDraw line s.preempt).2.beginCommand = .next t ∧ t.susp = none :=
  ⟨pendingLine cfgT (ascii "PING") [], _, ascii "PING", .ping, rfl, rfl, by decide +kernel, by decide +kernel, rfl,
    by decide +kernel⟩

theorem witness_StepRunsDecodedInstruction_suspends :
    ∃ (s t : State) (line : List Byte) (i : Instr), s.mphase = .poll ∧ s.ready = true ∧ s.fetch = some line ∧
      decode (lineDraw line s.preempt).1 line = .ok i ∧
      exec i (lineDraw line s.preempt).2.beginCommand = .next t ∧ t.susp ≠ none :=
  ⟨pendingLine cfgT (ascii "HOME_PAN") [false, true], _, ascii "HOME_PAN", .homePan, rfl, rfl, by decide +kernel,
    by decide +kernel, rfl, by decide +kernel⟩

theorem witness_FetchWordIsRunNext :
    ∃ (s t : State) (nbits w : Nat) (i : Instr), needsDraw (tableLine nbits w) = false ∧
      decodeTableWord nbits w = some i ∧ exec i (s.withFetchWord nbits w).preempt.beginCommand = .next t :=
  ⟨polling cfgT [], _, 40, 0x00474E4950, .ping, by decide +kernel, by decide +kernel, rfl⟩

theorem witness_CommandStepReleasesMailbox :
    (∃ s t : State, s.mphase = .poll ∧ s.ready = true ∧ step s = .next t ∧ t.susp = none) ∧
    (∃ s t : State, s.mphase = .poll ∧ s.ready = true ∧ step s = .next t ∧ t.susp ≠ none) :=
  ⟨⟨pendingLine cfgT (ascii "PING") [], stateOf (step (pendingLine cfgT (ascii "PING") [])), rfl, rfl, rfl,
      by decide +kernel⟩,
    pendingLine cfgT (ascii "HOME_PAN") [false, true],
      stateOf (step (pendingLine cfgT (ascii "HOME_PAN") [false, true])), rfl, rfl, rfl, by decide +kernel⟩

/-- Of `StepNeverWritesConfiguration` and `TraceOnlyGrows`. -/
theorem witness_step_answers : ∃ s t : State, step s = .next t := ⟨polling cfgT [], _, rfl⟩

theorem witness_PendingLineDiscardsEveryByte : ∃ s : State, s.ready = true := ⟨running cfgT [], rfl⟩

theorem witness_TerminatorEndsTheLine :
    (∃ s : State, s.ready = false ∧ s.cur < s.cfg.rxCap ∧ s.cur = 0) ∧
    (∃ s : State, s.ready = false ∧ s.cur < s.cfg.rxCap ∧ s.cur = s.cfg.rxCap - 1) :=
  ⟨⟨polling cfgT [], rfl, by decide, rfl⟩, (polling cfgT []).setCur 31, rfl, by decide, rfl⟩

theorem witness_OtherBytesAreStoredOrDropped :
    (∃ (s : State) (b c : Byte), s.ready = false ∧ s.cur = s.cfg.rxCap - 2 ∧ b.toNat = 0x20 ∧ c.toNat = 0x7E ∧
      s.cur < s.cfg.rxCap - 1) ∧
    (∃ (s : State) (b c : Byte), s.ready = false ∧ b.toNat = 0x1F ∧ c.toNat = 0x7F ∧ s.cur = s.cfg.rxCap - 1) :=
  ⟨⟨(polling cfgT []).setCur 30, 0x20, 0x7E, rfl, rfl, rfl, rfl, by decide⟩,
    (polling cfgT []).setCur 31, 0x1F, 0x7F, rfl, rfl, rfl, rfl⟩

/-- An empty line, a short one and one that is cut. -/
theorem witness_WireBytesBecomeThePendingLine :
    (polling cfgT []).ready = false ∧ (polling cfgT []).cur = 0 ∧ isTerminator 0x0D = true ∧
    ([0x09, 0xFF] : List Byte).all (fun b => !isTerminator b) = true ∧
    (([0x09, 0xFF] : List Byte).filter isPrintable).take ((polling cfgT []).cfg.rxCap - 1) = [] ∧
    (List.replicate 32 (0x41 : Byte)).all (fun b => !isTerminator b) = true ∧
    ((List.replicate 32 (0x41 : Byte)).filter isPrintable).take ((polling cfgT []).cfg.rxCap - 1) =
      List.replicate 31 0x41 := by decide

theorem witness_CrLfMakesOneLine :
    (∃ s : State, s.ready = false ∧ s.cur < s.cfg.rxCap ∧ 0 < s.cur) ∧
    (∃ s : State, s.ready = false ∧ s.cur < s.cfg.rxCap ∧ s.cur = 0) :=
  ⟨⟨(polling cfgT []).setCur 1, rfl, by decide, by decide⟩, polling cfgT [], rfl, by decide, rfl⟩

theorem witness_RequestOnTheWireIsExecuted :
    ∃ (s t : State) (i : Instr) (e : Byte) (rest : List (List Byte)), s.mphase = .poll ∧ s.ready = false ∧ s.cur = 0 ∧
      i.wellFormed = true ∧ (encode i).length ≤ s.cfg.rxCap - 1 ∧ isTerminator e = true ∧
      s.env.arrivals = (encode i ++ [e]) :: rest ∧
      exec i ((s.setEnv { s.env with arrivals := rest }).deliver (encode i ++ [e])).beginCommand = .next t :=
  ⟨(polling cfgT []).setEnv { (polling cfgT []).env with arrivals := (encode (.panRel 5) ++ [0x0A]) :: [] }, _,
    .panRel 5, 0x0A, [], rfl, rfl, rfl, by decide, by decide, by decide, rfl, rfl⟩

theorem witness_EncodeThenDecodeIsIdentity :
    (Instr.tiltAbs (-2147483648)).wellFormed = true ∧ (Instr.unknown (ascii "x")).wellFormed = true := by decide

theorem witness_EveryLineDecodesWellFormed :
    (ascii " " ≠ [] ∧ (ascii " ").all isPrintable = true) ∧
    (([0x7F] : List Byte) ≠ [] ∧ ([0x7F] : List Byte).all isPrintable = false) := by decide

theorem witness_PrefixRowsParseTheSuffix : ([] : List Byte).all isPrintable = true := by decide

theorem witness_ParseIntReadsLeadingDecimal :
    (∃ (m : Nat) (tail : List Byte), (∀ b ∈ tail.head?, isDigit b = false) ∧ InI32 m ∧ InI32 (-m) ∧ m = 0) ∧
    (∃ (m : Nat) (tail : List Byte), (∀ b ∈ tail.head?, isDigit b = false) ∧ ¬InI32 m ∧ InI32 (-m) ∧ -m = i32Min) ∧
    (∃ (m : Nat) (tail : List Byte), (∀ b ∈ tail.head?, isDigit b = false) ∧ ¬InI32 m ∧ ¬InI32 (-m) ∧ m = 2147483649) :=
  ⟨⟨0, ascii "abc", by decide, by decide, by decide, rfl⟩,
    ⟨2147483648, [], by decide, by decide, by decide, by decide⟩, 2147483649, [], by decide, by decide, by decide, rfl⟩

/-- An unsigned tail, and the tails `-5` and ` 5` of the signed forms alone. -/
theorem witness_NonNumericSuffixIsZero :
    ((∀ b ∈ (ascii "PING").head?, isDigit b = false) ∧
      (∀ b ∈ (ascii "PING").head?, b ≠ 0x20 ∧ b ≠ 0x2D ∧ b ≠ 0x2B)) ∧
    (∀ b ∈ (ascii "-5").head?, isDigit b = false) ∧ (∀ b ∈ (ascii " 5").head?, isDigit b = false) := by decide

/-- Of `PulseIsSetDelayClearDelay`, `SetDirWritesLevelAndSettles`, `TxLineSendsTextThenEol`, `GetPosReportsBothPositions`,
`GetStatusReportsInputsAndFlags`, `PingAnswersPong` and `UnknownEchoesTheLine`. -/
theorem witness_ready : ∃ s : State, s.ready = true := ⟨running cfgT [], rfl⟩

theorem witness_MoveAxisFollowsItsLoop : ∃ (n : Int) (s : State), n ≠ 0 ∧ s.ready = true :=
  ⟨i32Min, running cfgT [], by decide, rfl⟩

theorem witness_MoveAxisConservesSteps :
    ∃ (n : Int) (s : State), InI32 n ∧ s.cfg.softMin.get .pan ≤ s.pos.get .pan ∧ s.pos.get .pan ≤ s.cfg.softMax.get .pan :=
  ⟨i32Max, runningAt 4200 0 [], by decide, by decide, by decide⟩

theorem witness_UnobstructedMoveClamps :
    ∃ (a : Axis) (n : Int) (s : State), n ≠ i32Min ∧ s.cfg.softMin.get a ≤ s.pos.get a ∧
      s.pos.get a ≤ s.cfg.softMax.get a ∧ ∀ i, i < n.natAbs → s.answer i = true :=
  ⟨.pan, 3, runningAt 4199 0 [true, true, true], by decide, by decide, by decide, by decide⟩

theorem witness_RelativeMoveCompletes :
    (∃ (n : Int) (s : State), s.ready = true ∧ InI32 n ∧ n = 0) ∧
    (∃ (n : Int) (s : State), s.ready = true ∧ InI32 n ∧ n = i32Min) :=
  ⟨⟨0, running cfgT [], rfl, by decide, rfl⟩, i32Min, running cfgT [], rfl, by decide, rfl⟩

theorem witness_AbsoluteMoveCompletes :
    (∃ (t : Int) (s : State), s.ready = true ∧ deltaOf .pan t s = 0) ∧
    (∃ (t : Int) (s : State), s.ready = true ∧ deltaOf .pan t s ≠ 0) :=
  ⟨⟨0, running cfgT [], rfl, by decide⟩, 1, running cfgT [], rfl, by decide⟩

theorem witness_UnobstructedAbsoluteMoveReachesTarget :
    ∃ (a : Axis) (target : Int) (s : State), InI32 (target - s.pos.get a) ∧ target - s.pos.get a ≠ i32Min ∧
      s.cfg.softMin.get a ≤ s.pos.get a ∧ s.pos.get a ≤ s.cfg.softMax.get a ∧
      ∀ i, i < (target - s.pos.get a).natAbs → s.answer i = true :=
  ⟨.tilt, -802, runningAt 0 (-800) [true, true], by decide, by decide, by decide, by decide, by decide⟩

theorem witness_CenterCompletes :
    ∃ s : State, s.ready = true ∧ InSoftRange s ∧
      ∀ i, i < s.pos.pan.natAbs + s.pos.tilt.natAbs → s.answer i = true :=
  ⟨runningAt 2 (-1) [true, true, true], rfl, fun a => by cases a <;> decide, by decide⟩

theorem witness_CenterAtOriginOnlyResponds : ∃ s : State, s.ready = true ∧ s.pos = ⟨0, 0⟩ :=
  ⟨running cfgT [], rfl, rfl⟩

/-- V-H1's answers: three seek pulses, two slow pulses. -/
theorem witness_HomeReturns_ok :
    HomeReturns (running cfgT [true, true, true, false, true, true, false]) .pan 0 true 7
      (homeEvents cfgT .pan 3 2 ++ [.pinRead (.neg .pan) false]) :=
  ⟨3, 2, ⟨by decide, by decide, by decide⟩, ⟨by decide, by decide, by decide⟩, rfl, rfl⟩

/-- V-H5: found at the ceiling, where LimitWins; no slow pulse. -/
theorem witness_HomeReturns_tie :
    ∃ es, HomeReturns (running (cfgSeek 3 1 .limitWins .stopAtFirstFailure) [true, true, true, false, false]) .pan 0
      true 5 es :=
  ⟨_, 3, 0, ⟨by decide, by decide, by decide⟩, ⟨by decide, by decide, by decide⟩, rfl, rfl⟩

/-- V-H9: a ceiling of 0 under TimeoutWins. -/
theorem witness_HomeReturns_err :
    ∃ es, HomeReturns (running (cfgSeek 0 0 .timeoutWins .stopAtFirstFailure) [false]) .pan 0 false 1 es :=
  ⟨_, ⟨by decide, by decide⟩, rfl, rfl⟩

theorem witness_HomingCommandReturns :
    ∃ (s : State) (a : Axis) (ok : Bool) (n : Nat) (es : List Event), s.ready = true ∧ HomeReturns s a 0 ok n es :=
  ⟨_, .pan, true, 7, _, rfl, witness_HomeReturns_ok⟩

theorem witness_HomingCommandGoesOn :
    ∃ (s : State) (a : Axis) (k : Nat), s.ready = true ∧ SeekFinds s a 0 k ∧ ReapproachGoesOn s (k + 1) :=
  ⟨running cfgT [true, false, true, true], .pan, 1, rfl, ⟨by decide, by decide, by decide⟩, by
    unfold ReapproachGoesOn; decide⟩

theorem witness_SuspendedHomingFinishes :
    ∃ (s : State) (a : Axis) (m : Nat), s.ready = true ∧ s.mphase = .exec ∧ s.susp = some (suspendedHome a) ∧
      ReapproachEnds s 0 m :=
  ⟨suspendedAt cfgT .homeTilt [true, false], .tilt, 1, rfl, rfl, rfl, ⟨by decide, by decide, by decide⟩⟩

theorem witness_SuspendedReapproachGoesOn :
    ∃ (s : State) (p : Suspended), s.ready = true ∧ s.mphase = .exec ∧ s.susp = some p ∧ ReapproachGoesOn s 0 :=
  ⟨suspendedAt cfgT (.homeAllTilt true) [true, true], _, rfl, rfl, rfl, by unfold ReapproachGoesOn; decide⟩

/-- Pan fails under StopAtFirstFailure. -/
theorem witness_HomeAllFollowsItsPolicy_stops :
    ∃ (s : State) (n : Nat) (es : List Event), s.ready = true ∧ HomeReturns s .pan 0 false n es ∧
      s.cfg.homeAllPolicy = .stopAtFirstFailure :=
  ⟨running (cfgSeek 0 0 .limitWins .stopAtFirstFailure) [true], 1, _, rfl, ⟨⟨by decide, by decide⟩, rfl, rfl⟩, rfl⟩

/-- Pan homes, tilt reaches its ceiling. -/
theorem witness_HomeAllFollowsItsPolicy_both :
    ∃ (s : State) (n n' : Nat) (es es' : List Event), s.ready = true ∧ HomeReturns s .pan 0 true n es ∧
      s.cfg.homeAllPolicy = .attemptBothReportIfAll ∧ HomeReturns s .tilt n false n' es' :=
  ⟨running (cfgSeek 3 1 .limitWins .attemptBothReportIfAll) [false, false, true, true], 2, 2, _, _, rfl,
    ⟨0, 0, ⟨by decide, by decide, by decide⟩, ⟨by decide, by decide, by decide⟩, rfl, rfl⟩, rfl,
    ⟨⟨by decide, by decide⟩, rfl, rfl⟩⟩

theorem witness_HomeAllGoesOnInPan :
    ∃ (s : State) (k : Nat), s.ready = true ∧ SeekFinds s .pan 0 k ∧ ReapproachGoesOn s (k + 1) :=
  ⟨running cfgT [false, true], 0, rfl, ⟨by decide, by decide, by decide⟩, by unfold ReapproachGoesOn; decide⟩

theorem witness_HomeAllGoesOnInTilt :
    ∃ (s : State) (panOk : Bool) (n k : Nat) (es : List Event), s.ready = true ∧ HomeReturns s .pan 0 panOk n es ∧
      ¬(panOk = false ∧ s.cfg.homeAllPolicy = .stopAtFirstFailure) ∧
      SeekFinds s .tilt n k ∧ ReapproachGoesOn s (n + (k + 1)) :=
  ⟨running cfgT [false, false, false, true], true, 2, 0, _, rfl,
    ⟨0, 0, ⟨by decide, by decide, by decide⟩, ⟨by decide, by decide, by decide⟩, rfl, rfl⟩, by decide,
    ⟨by decide, by decide, by decide⟩, by unfold ReapproachGoesOn; decide⟩

theorem witness_SuspendedHomeAllFinishesInTilt :
    ∃ (s : State) (m : Nat) (panOk : Bool), s.ready = true ∧ s.mphase = .exec ∧ ReapproachEnds s 0 m ∧
      s.susp = some (.homeAllTilt panOk) :=
  ⟨suspendedAt cfgT (.homeAllTilt false) [false], 0, false, rfl, rfl, ⟨by decide, by decide, by decide⟩, rfl⟩

theorem witness_SuspendedHomeAllFinishesFromPan :
    ∃ (s : State) (m n : Nat) (tiltOk : Bool) (es : List Event), s.ready = true ∧ s.mphase = .exec ∧
      ReapproachEnds s 0 m ∧ s.susp = some .homeAllPan ∧ HomeReturns s .tilt (m + 1) tiltOk n es :=
  ⟨suspendedAt cfgT .homeAllPan [true, false, false, false], 1, 2, true, _, rfl, rfl,
    ⟨by decide, by decide, by decide⟩, rfl,
    ⟨0, 0, ⟨by decide, by decide, by decide⟩, ⟨by decide, by decide, by decide⟩, rfl, rfl⟩⟩

theorem witness_SuspendedHomeAllPassesToTilt :
    ∃ (s : State) (m k : Nat), s.ready = true ∧ s.mphase = .exec ∧ ReapproachEnds s 0 m ∧
      s.susp = some .homeAllPan ∧ SeekFinds s .tilt (m + 1) k ∧ ReapproachGoesOn s (m + 1 + (k + 1)) :=
  ⟨suspendedAt cfgT .homeAllPan [false, false, true], 0, 0, rfl, rfl, ⟨by decide, by decide, by decide⟩, rfl,
    ⟨by decide, by decide, by decide⟩, by unfold ReapproachGoesOn; decide⟩

theorem witness_HomedPositionIsTheReference :
    ∃ (s : State) (a : Axis) (n : Nat) (es : List Event), s.cfg.Fixed ∧ s.ready = true ∧ HomeReturns s a 0 true n es :=
  ⟨_, .pan, 7, _, by decide, rfl, witness_HomeReturns_ok⟩

/-- Of `CommandsKeepTheMailbox` and `SerialInputCannotAlterACommand`, the clause on `exec`. -/
theorem witness_exec_answers : ∃ (i : Instr) (s t : State), s.ready = true ∧ exec i s = .next t :=
  ⟨.homeAll, running cfgT [], _, rfl, rfl⟩

/-- Of the same, the clause on a step: a later slice of a suspended command, and the step of a pending line. -/
theorem witness_step_with_pending_line :
    (∃ (s t : State) (p : Suspended), s.mphase = .exec ∧ s.ready = true ∧ s.susp = some p ∧ step s = .next t) ∧
    (∃ s t : State, s.mphase = .poll ∧ s.ready = true ∧ step s = .next t) :=
  ⟨⟨suspendedAt cfgT .homeAllPan [true], _, _, rfl, rfl, rfl, rfl⟩, pendingLine cfgT (ascii "PING") [], _, rfl, rfl, rfl⟩

theorem witness_OnlyHomingWritesHomed :
    (∃ (i : Instr) (s t : State), isHomingInstr i = false ∧ exec i s = .next t) ∧
    (∃ s t : State, s.mphase ≠ .exec ∧ s.preempt.ready = false ∧ step s = .next t) :=
  ⟨⟨.center, running cfgT [], _, rfl, rfl⟩, polling cfgT [], _, by decide, by decide +kernel, rfl⟩

/-- A state of every phase meets the invariant: here one suspended in a re-approach, after a command line. -/
theorem witness_RunInv : RunInv (suspendedAt cfgT .homePan [true]) where
  canonical := by decide
  whole := by decide
  cursor := by decide
  pending := fun _ => ⟨rfl, 4, by decide, by decide, by decide, by
    intro i hi
    have h : i = 0 ∨ i = 1 ∨ i = 2 ∨ i = 3 := by omega
    rcases h with rfl | rfl | rfl | rfl <;> exact ⟨_, rfl, by decide⟩⟩
  assembling := fun h => absurd h (by decide)
  soft := fun a => by cases a <;> decide
  stepLow := fun a => by cases a <;> rfl
  execSuspended := by decide
  execReady := fun _ => rfl
  suspended := by
    intro p hp
    cases hp
    decide
  idle := fun h => absurd h (by decide)

theorem witness_StepKeepsTheInvariant : ∃ s t : State, RunInv s ∧ step s = .next t :=
  ⟨_, _, witness_RunInv, rfl⟩

theorem witness_InvariantStatesNeverStop : ∃ s : State, RunInv s := ⟨_, witness_RunInv⟩

theorem witness_StepKeepsRisingEdges : ∃ s t : State, RisingEdges s ∧ step s = .next t :=
  ⟨{ suspendedAt cfgT .homePan [true] with trace := dirEvents cfgT .pan .plus ++ pulseEvents .pan }, _,
    fun a => by cases a <;> decide, rfl⟩

theorem witness_StepKeepsDirBeforeStep : ∃ s t : State, DirSettled s ∧ step s = .next t :=
  ⟨{ suspendedAt cfgT .homePan [true] with trace := dirEvents cfgT .pan .plus ++ pulseEvents .pan }, _,
    ⟨fun a => by cases a <;> decide, fun p hp => by cases hp; decide⟩, rfl⟩

end Sys2Proof.Tests
end

section
/-!
PROOFS. The state right after reset (00_scope.md R8; 10_state.md R45).
-/

namespace Sys2Proof.Machine

/-! The buffer after reset is whole, so the memory laws apply to it. -/

theorem State.reset_buf_whole : State.reset.buf.whole State.reset.cfg.rxCap = true :=
  Memory.whole_blank Config.hardware.rxCap

theorem State.reset_memRead {i : Nat} (hi : i < State.reset.cfg.rxCap) : ∃ b, State.reset.memRead i = some b :=
  Memory.read_of_whole State.reset_buf_whole hi

/-- None of the four values is an open parameter; the tilt reference and the tilt minimum are the same open one. -/
theorem Config.hardware_fixed : Config.hardware.Fixed := ⟨rfl, rfl, rfl, rfl⟩

/-- Settles O1: the registers are the fields of `State.reset`; the buffer and the configuration rest on the lemmas
above. -/
theorem resetLeavesTheTableValues : Obligations.ResetLeavesTheTableValues := by
  unfold Obligations.ResetLeavesTheTableValues
  refine ⟨?pos, ?homed, ?ready, ?cur, ?stepOut, ?mphase, ?hphase, ?trace, ?buffer, ?fixed⟩
  case buffer => exact fun _ hi => State.reset_memRead hi
  case fixed => exact Config.hardware_fixed
  all_goals rfl

end Sys2Proof.Machine
end

section
/-!
PROOFS. What the receive interrupt leaves as it was (20_memory.md R69, R74).
-/

namespace Sys2Proof.Machine

/-- Settles O10: while a line is pending the interrupt amounts to its `Rx` event, and an event writes no register. -/
theorem pendingLineDiscardsEveryByte : Obligations.PendingLineDiscardsEveryByte := by
  intro s b hready
  rw [State.receive_of_ready b hready]
  exact ⟨s.emit_buf _, s.emit_cur _, s.emit_ready _⟩

theorem State.receive_axisKept (s : State) (b : Byte) (a : Axis) : AxisKept a s (s.receive b) := by
  simp [AxisKept]

theorem State.receive_controlKept (s : State) (b : Byte) : ControlKept s (s.receive b) :=
  ⟨s.receive_mphase b, s.receive_susp b, s.receive_cfg b⟩

/-- Settles O13: field by field from the frame of the interrupt; `ready` stays set because a pending line discards the
byte. -/
theorem receiverTouchesOnlyTheMailbox : Obligations.ReceiverTouchesOnlyTheMailbox := by
  intro s b
  have ready_kept (hready : s.ready = true) : (s.receive b).ready = true := by
    obtain ⟨-, -, h⟩ := pendingLineDiscardsEveryByte s b hready
    exact h.trans hready
  exact ⟨s.receive_trace b, s.receive_axisKept b .pan, s.receive_axisKept b .tilt, s.receive_controlKept b,
    s.receive_loop b, s.receive_env b, ready_kept⟩

end Sys2Proof.Machine
end

section
/-!
PROOFS. The zero request (41_motion.md R173).
-/

namespace Sys2Proof.Machine

/-- Settles O28: the request 0 is answered before a direction is set or the loop is entered (`moveAxis_zero`). -/
theorem zeroMoveDoesNothing : Obligations.ZeroMoveDoesNothing := by
  intro a s
  exact moveAxis_zero a s

end Sys2Proof.Machine
end

section
/-!
PROOFS. The commands whose meaning is one transmitted line: GET_POS, PING and UNKNOWN (43_query.md R250, R255, R256).
-/

namespace Sys2Proof.Machine

/-! The frame of a transmitted line. Bytes that arrive meanwhile are discarded because a line is pending (20_memory.md
R69), so the mailbox is kept too. -/

theorem State.txLine_mailboxKept {s : State} (text : List Byte) (hready : s.ready = true) :
    MailboxKept s (s.txLine text) :=
  ⟨fun i => congrArg (Memory.read · i) (State.txLine_buf text hready), State.txLine_cur text hready,
    State.txLine_ready text hready⟩

theorem State.txLine_axisKept (s : State) (text : List Byte) (a : Axis) : AxisKept a s (s.txLine text) := by
  simp [AxisKept]

theorem State.txLine_controlKept (s : State) (text : List Byte) : ControlKept s (s.txLine text) :=
  ⟨s.txLine_mphase text, s.txLine_susp text, s.txLine_cfg text⟩

theorem State.txLine_nothingMoved {s : State} (text : List Byte) (hready : s.ready = true) :
    NothingMoved s (s.txLine text) :=
  ⟨State.txLine_mailboxKept text hready, s.txLine_axisKept text .pan, s.txLine_axisKept text .tilt,
    s.txLine_controlKept text, s.txLine_loop text⟩

/-- A command that amounts to one transmitted line completes, adds the events of that line alone, and moves nothing. -/
theorem exec_responds_of_eq_txLine {i : Instr} {s : State} {text : List Byte}
    (hexec : exec i s = .next (s.txLine text)) (hready : s.ready = true) :
    ∃ t, exec i s = .next t ∧ t.mainTrace = s.mainTrace ++ lineEvents s.cfg text ∧ NothingMoved s t :=
  ⟨s.txLine text, hexec, s.mainTrace_txLine text, State.txLine_nothingMoved text hready⟩

/-! The line each of the three commands transmits. -/

theorem exec_getPos_eq_txLine (s : State) : exec .getPos s = .next (s.txLine (posLine s.pos.pan s.pos.tilt)) := rfl

theorem exec_ping_eq_txLine (s : State) : exec .ping s = .next (s.txLine (ascii "PONG")) := rfl

theorem exec_unknown_eq_txLine (text : List Byte) (s : State) :
    exec (.unknown text) s = .next (s.txLine (ascii "ERROR:" ++ text)) := rfl

/-- Settles O48: the one line is `posLine` of the two positions. -/
theorem getPosReportsBothPositions : Obligations.GetPosReportsBothPositions := by
  intro s hready
  exact exec_responds_of_eq_txLine (exec_getPos_eq_txLine s) hready

/-- Settles O50: the one line is the fixed text `PONG`. -/
theorem pingAnswersPong : Obligations.PingAnswersPong := by
  intro s hready
  exact exec_responds_of_eq_txLine (exec_ping_eq_txLine s) hready

/-- Settles O51: the one line is that of the protocol error (60_exceptions.md R272), whose report only transmits. -/
theorem unknownEchoesTheLine : Obligations.UnknownEchoesTheLine := by
  intro text s hready
  exact exec_responds_of_eq_txLine (exec_unknown_eq_txLine text s) hready

end Sys2Proof.Machine
end

section
/-!
PROOFS. DIR before STEP (70_reset_and_hazards.md R331), as a property of lists of events: what a list does to the
settling of an axis, and which lists may follow any trace whose pulses began on a settled DIR.
-/

namespace Sys2Proof.Machine

/-! The settling after a list of events. -/

theorem settling_append (a : Axis) (x : Settling) (es fs : List Event) :
    settling a x (es ++ fs) = (settling a x es).bind fun y => settling a y fs := by
  induction es generalizing x with
  | nil => rfl
  | cons e es ih =>
    simp only [List.cons_append, settling]
    split_ifs <;> simp [ih]

/-- RX's events settle nothing and disturb nothing, so MAIN's share of the trace decides. -/
theorem State.settling_mainTrace (a : Axis) (x : Settling) (s : State) :
    settling a x s.mainTrace = settling a x s.trace := by
  unfold State.mainTrace
  induction s.trace generalizing x with
  | nil => rfl
  | cons e es ih =>
    cases hrx : e.isRx with
    | false => simp [hrx, settling, ih]
    | true =>
      cases e with
      | rx b => simpa [hrx, settling] using ih x
      | _ => cases hrx

/-- SetDir leaves a settled DIR, whatever there was before (41_motion.md R171). -/
theorem settling_dirEvents (c : Config) (a : Axis) (d : Dir) (x : Settling) :
    settling a x (dirEvents c a d) = some .settled := by
  unfold dirEvents
  split <;> simp [settling]

/-! Three kinds of events. -/

/-- The event neither writes `DIR[a]` nor begins a pulse of `a`. -/
def Event.ForeignTo (a : Axis) (e : Event) : Prop :=
  e ≠ .pinSet (.dir a) ∧ e ≠ .pinClear (.dir a) ∧ e ≠ .pinSet (.step a)

/-- The events of a motion of `a` other than its DIR writes. -/
inductive Event.InRunOf (a : Axis) : Event → Prop
  | read (p : InPin) (v : Bit) : InRunOf a (.pinRead p v)
  | delay (t : Duration) : InRunOf a (.delay t)
  | rise : InRunOf a (.pinSet (.step a))
  | fall : InRunOf a (.pinClear (.step a))

theorem Event.InRunOf.foreignTo {a b : Axis} {e : Event} (h : e.InRunOf a) (hb : b ≠ a) : e.ForeignTo b := by
  cases h <;> simp [Event.ForeignTo, hb.symm]

theorem foreignTo_of_mem_dirEvents {c : Config} {a b : Axis} {d : Dir} (hb : b ≠ a) :
    ∀ e ∈ dirEvents c a d, e.ForeignTo b := by
  unfold dirEvents
  split <;> simp [Event.ForeignTo, hb.symm]

theorem foreignTo_of_mem_lineEvents (c : Config) (text : List Byte) (a : Axis) :
    ∀ e ∈ lineEvents c text, e.ForeignTo a := by
  intro e he
  obtain ⟨b, -, rfl⟩ := List.mem_map.1 he
  simp [Event.ForeignTo]

/-! The events of pulses and reads are those of a run. -/

theorem inRunOf_of_mem_pulseEvents (a : Axis) : ∀ e ∈ pulseEvents a, e.InRunOf a := by
  simp [pulseEvents, Event.InRunOf.rise, Event.InRunOf.fall, Event.InRunOf.delay]

theorem inRunOf_of_mem_slowEvents (a : Axis) : ∀ e ∈ slowEvents a, e.InRunOf a :=
  List.forall_mem_append.2 ⟨inRunOf_of_mem_pulseEvents a, List.forall_mem_singleton.2 (.delay _)⟩

theorem inRunOf_of_mem_pulseRounds (a : Axis) (n : Nat) : ∀ e ∈ pulseRounds a n, e.InRunOf a := by
  induction n with
  | zero => simp [pulseRounds]
  | succ n ih => exact List.forall_mem_append.2 ⟨inRunOf_of_mem_pulseEvents a, ih⟩

theorem inRunOf_of_mem_readRounds {a : Axis} {es : List Event} (h : ∀ e ∈ es, e.InRunOf a) (p : InPin) (v : Bit)
    (n : Nat) : ∀ e ∈ readRounds p v es n, e.InRunOf a := by
  induction n with
  | zero => simp [readRounds]
  | succ n ih => exact List.forall_mem_append.2 ⟨List.forall_mem_cons.2 ⟨.read p v, h⟩, ih⟩

theorem inRunOf_of_mem_moveEvents (a : Axis) (d : Dir) (k n : Nat) (v : Bit) :
    ∀ e ∈ moveEvents a d k n v, e.InRunOf a := by
  refine List.forall_mem_append.2 ⟨inRunOf_of_mem_readRounds (inRunOf_of_mem_pulseEvents a) _ _ _, ?_⟩
  split <;> simp [Event.InRunOf.read]

/-! What each kind does to the settling. -/

/-- A foreign event leaves the settling of `a`, but that a settle delay may fall in it. -/
theorem settling_cons_of_foreignTo {a : Axis} {e : Event} (he : e.ForeignTo a) (x : Settling) :
    ∃ y, (x = .settled → y = .settled) ∧ ∀ es, settling a x (e :: es) = settling a y es := by
  obtain ⟨hset, hclear, hstep⟩ := he
  by_cases hdelay : e = .delay .tDirSettle
  · refine ⟨if x = .neverSet then .neverSet else .settled, by rintro rfl; rfl, fun es => ?_⟩
    simp [settling, hdelay]
  · exact ⟨x, id, fun es => by simp [settling, hset, hclear, hstep, hdelay]⟩

theorem settling_of_foreignTo {a : Axis} {es : List Event} (h : ∀ e ∈ es, e.ForeignTo a) (x : Settling) :
    ∃ y, (x = .settled → y = .settled) ∧ settling a x es = some y := by
  induction es generalizing x with
  | nil => exact ⟨x, id, rfl⟩
  | cons e es ih =>
    obtain ⟨he, hes⟩ := List.forall_mem_cons.1 h
    obtain ⟨y, hxy, hcons⟩ := settling_cons_of_foreignTo he x
    obtain ⟨z, hyz, hz⟩ := ih hes y
    exact ⟨z, hyz ∘ hxy, by rw [hcons, hz]⟩

/-- The pulses of a run that begins on a settled DIR all do, and DIR is still settled after it. -/
theorem settling_of_inRunOf {a : Axis} {es : List Event} (h : ∀ e ∈ es, e.InRunOf a) :
    settling a .settled es = some .settled := by
  induction es with
  | nil => rfl
  | cons e es ih =>
    obtain ⟨he, hes⟩ := List.forall_mem_cons.1 h
    cases he <;> simp [settling, ih hes]

/-! Lists that may follow any trace. -/

/-- However far the DIR of any axis has settled, no pulse of the list begins on an unsettled one, and a DIR that is
settled before the list is settled after it. -/
def DirSafe (es : List Event) : Prop :=
  ∀ (a : Axis) (x : Settling), ∃ y, (x = .settled → y = .settled) ∧ settling a x es = some y

theorem DirSafe.append {es fs : List Event} (hes : DirSafe es) (hfs : DirSafe fs) : DirSafe (es ++ fs) := by
  intro a x
  obtain ⟨y, hxy, hy⟩ := hes a x
  obtain ⟨z, hyz, hz⟩ := hfs a y
  exact ⟨z, hyz ∘ hxy, by rw [settling_append, hy, Option.bind_some, hz]⟩

theorem DirSafe.of_foreignTo {es : List Event} (h : ∀ a, ∀ e ∈ es, e.ForeignTo a) : DirSafe es :=
  fun a x => settling_of_foreignTo (h a) x

theorem dirSafe_lineEvents (c : Config) (text : List Byte) : DirSafe (lineEvents c text) :=
  .of_foreignTo (foreignTo_of_mem_lineEvents c text)

theorem dirSafe_pinRead (p : InPin) (v : Bit) : DirSafe [.pinRead p v] :=
  .of_foreignTo fun _ => by simp [Event.ForeignTo]

/-- A run after SetDir ends on a settled DIR. -/
theorem settling_dirEvents_append (c : Config) (a : Axis) (d : Dir) (x : Settling) {es : List Event}
    (h : ∀ e ∈ es, e.InRunOf a) : settling a x (dirEvents c a d ++ es) = some .settled := by
  rw [settling_append, settling_dirEvents, Option.bind_some, settling_of_inRunOf h]

/-- SetDir before a run: the DIR of the axis is settled when the run begins, and to the other axis all is foreign. -/
theorem DirSafe.dirEvents_append (c : Config) (a : Axis) (d : Dir) {es : List Event} (h : ∀ e ∈ es, e.InRunOf a) :
    DirSafe (dirEvents c a d ++ es) := by
  intro b x
  by_cases hb : b = a
  · subst hb
    exact ⟨.settled, fun _ => rfl, settling_dirEvents_append c b d x h⟩
  · exact settling_of_foreignTo
      (List.forall_mem_append.2 ⟨foreignTo_of_mem_dirEvents hb, fun e he => (h e he).foreignTo hb⟩) x

/-! A homing is three runs, each after its own SetDir: seek, back-off, slow re-approach (42_homing.md R221). -/

/-- The events of a homing up to the entry of its re-approach. -/
def beforeReapproachEvents (c : Config) (a : Axis) (k : Nat) : List Event :=
  (dirEvents c a .minus ++ (readRounds (.neg a) true (pulseEvents a) k ++ [.pinRead (.neg a) false])) ++
    (dirEvents c a .plus ++ pulseRounds a c.backoffSteps)

theorem homeEvents_eq_append (c : Config) (a : Axis) (k m : Nat) : homeEvents c a k m =
    beforeReapproachEvents c a k ++ (dirEvents c a .minus ++ readRounds (.neg a) true (slowEvents a) m) := by
  simp [homeEvents, beforeReapproachEvents]

/-- The events of the seek: its rounds and the read that ends it. -/
theorem inRunOf_of_mem_seekEvents (a : Axis) (k : Nat) (v : Bit) :
    ∀ e ∈ readRounds (.neg a) true (pulseEvents a) k ++ [.pinRead (.neg a) v], e.InRunOf a :=
  List.forall_mem_append.2 ⟨inRunOf_of_mem_readRounds (inRunOf_of_mem_pulseEvents a) _ _ _,
    List.forall_mem_singleton.2 (.read _ _)⟩

theorem dirSafe_beforeReapproachEvents (c : Config) (a : Axis) (k : Nat) : DirSafe (beforeReapproachEvents c a k) :=
  (DirSafe.dirEvents_append c a .minus (inRunOf_of_mem_seekEvents a k false)).append
    (DirSafe.dirEvents_append c a .plus (inRunOf_of_mem_pulseRounds a _))

theorem inRunOf_of_mem_reapproachRounds (a : Axis) (m : Nat) :
    ∀ e ∈ readRounds (.neg a) true (slowEvents a) m, e.InRunOf a :=
  inRunOf_of_mem_readRounds (inRunOf_of_mem_slowEvents a) _ _ _

theorem dirSafe_homeEvents (c : Config) (a : Axis) (k m : Nat) : DirSafe (homeEvents c a k m) := by
  rw [homeEvents_eq_append]
  exact (dirSafe_beforeReapproachEvents c a k).append
    (DirSafe.dirEvents_append c a .minus (inRunOf_of_mem_reapproachRounds a m))

/-- A homing in its re-approach stands on a settled DIR. -/
theorem settling_homeEvents (c : Config) (a : Axis) (k m : Nat) (x : Settling) :
    settling a x (homeEvents c a k m) = some .settled := by
  obtain ⟨y, -, hy⟩ := dirSafe_beforeReapproachEvents c a k a x
  rw [homeEvents_eq_append, settling_append, hy, Option.bind_some,
    settling_dirEvents_append c a .minus y (inRunOf_of_mem_reapproachRounds a m)]

theorem dirSafe_seekFailEvents (c : Config) (a : Axis) (v : Bit) : DirSafe (seekFailEvents c a v) := by
  rw [seekFailEvents, List.append_assoc]
  exact DirSafe.dirEvents_append c a .minus (inRunOf_of_mem_seekEvents a _ v)

end Sys2Proof.Machine
end

section
/-!
PROOFS. Every operation of MAIN keeps `DirSettled` (70_reset_and_hazards.md R331): those that pulse write DIR first, but
for the slices of a suspended re-approach (log 14), which begin on the settled DIR that `DirSettled` promises them.
-/

namespace Sys2Proof.Machine

/-- `DIR[a]` has been written and has settled since. -/
def DirReady (a : Axis) (s : State) : Prop := settling a .neverSet s.trace = some .settled

/-! What appending to MAIN's share of the trace keeps. -/

theorem settling_trace_of_append {s t : State} {es : List Event} (a : Axis)
    (hev : t.mainTrace = s.mainTrace ++ es) :
    settling a .neverSet t.trace = (settling a .neverSet s.trace).bind fun x => settling a x es := by
  rw [← State.settling_mainTrace, hev, settling_append, State.settling_mainTrace]

theorem DirReady.append {s t : State} {es : List Event} {a : Axis} (h : DirReady a s)
    (hev : t.mainTrace = s.mainTrace ++ es) (hes : settling a .settled es = some .settled) : DirReady a t := by
  rw [DirReady, settling_trace_of_append a hev, h, Option.bind_some, hes]

/-- The one way `DirSettled` is kept: no pulse of the new events begins on an unsettled DIR, and they leave what was
settled so. -/
theorem DirSettled.append_of_settling {s t : State} {es : List Event} (h : DirSettled s) (hsusp : t.susp = s.susp)
    (hev : t.mainTrace = s.mainTrace ++ es)
    (hes : ∀ a x, settling a .neverSet s.trace = some x →
      ∃ y, (x = .settled → y = .settled) ∧ settling a x es = some y) : DirSettled t := by
  obtain ⟨hpulses, hready⟩ := h
  refine ⟨fun a => ?_, fun p hp => ?_⟩
  · obtain ⟨x, hx⟩ := Option.ne_none_iff_exists'.1 (hpulses a)
    obtain ⟨y, -, hy⟩ := hes a x hx
    rw [settling_trace_of_append a hev, hx, Option.bind_some, hy]
    exact Option.some_ne_none y
  · have hx := hready p (hsusp ▸ hp)
    obtain ⟨y, hsettled, hy⟩ := hes p.axis .settled hx
    rw [settling_trace_of_append p.axis hev, hx, Option.bind_some, hy, hsettled rfl]

theorem DirSettled.append {s t : State} {es : List Event} (h : DirSettled s) (hsusp : t.susp = s.susp)
    (hev : t.mainTrace = s.mainTrace ++ es) (hes : DirSafe es) : DirSettled t :=
  h.append_of_settling hsusp hev fun a x _ => hes a x

/-- A run without a SetDir of its own, on a DIR that is settled already. -/
theorem DirSettled.append_run {s t : State} {es : List Event} {a : Axis} (h : DirSettled s) (ha : DirReady a s)
    (hsusp : t.susp = s.susp) (hev : t.mainTrace = s.mainTrace ++ es) (hes : ∀ e ∈ es, e.InRunOf a) :
    DirSettled t ∧ DirReady a t := by
  refine ⟨h.append_of_settling hsusp hev fun b x hx => ?_, ha.append hev (settling_of_inRunOf hes)⟩
  by_cases hb : b = a
  · subst hb
    obtain rfl : x = .settled := Option.some.inj (hx.symm.trans ha)
    exact ⟨.settled, id, settling_of_inRunOf hes⟩
  · exact settling_of_foreignTo (fun e he => (hes e he).foreignTo hb) x

theorem DirSettled.of_mainTrace_eq {s t : State} (h : DirSettled s) (hsusp : t.susp = s.susp)
    (hev : t.mainTrace = s.mainTrace) : DirSettled t :=
  h.append hsusp (by rw [hev, List.append_nil]) (.of_foreignTo (by simp))

/-- A step that leaves MAIN in no command has no suspended re-approach to answer for. -/
theorem DirSettled.setSusp_none {s : State} (h : DirSettled s) : DirSettled (s.setSusp none) :=
  ⟨h.1, by simp⟩

theorem DirSettled.setSusp_some {s : State} {p : Suspended} (h : DirSettled s) (hp : DirReady p.axis s) :
    DirSettled (s.setSusp (some p)) := by
  refine ⟨h.1, fun q hq => ?_⟩
  obtain rfl : p = q := Option.some.inj hq
  exact hp

/-! The operations. -/

theorem DirSettled.txLine {s : State} (h : DirSettled s) (text : List Byte) : DirSettled (s.txLine text) :=
  h.append (by simp) (s.mainTrace_txLine text) (dirSafe_lineEvents _ _)

theorem DirSettled.pinRead {s : State} (h : DirSettled s) (p : InPin) : DirSettled (s.pinRead p).2 :=
  h.append (by simp) (s.mainTrace_pinRead p) (dirSafe_pinRead p _)

theorem DirSettled.preempt {s : State} (h : DirSettled s) : DirSettled s.preempt :=
  h.of_mainTrace_eq (by simp) (by simp)

theorem DirSettled.drawI32 {s : State} (h : DirSettled s) : DirSettled s.drawI32.2 :=
  h.of_mainTrace_eq (by simp) (by simp)

theorem DirSettled.release {s : State} (h : DirSettled s) : DirSettled s.release :=
  h.of_mainTrace_eq (by simp) (by simp)

theorem DirSettled.setMphase {s : State} (h : DirSettled s) (m : MPhase) : DirSettled (s.setMphase m) :=
  h.of_mainTrace_eq (by simp) (by simp)

/-- A move is one run after its own SetDir (41_motion.md R180). -/
theorem DirSettled.moveAxis {s : State} (h : DirSettled s) (a : Axis) (n : Int) : DirSettled (moveAxis a n s).2 := by
  by_cases hn : n = 0
  · rw [hn, moveAxis_zero]
    exact h
  · obtain ⟨k, hmove⟩ := moveAxis_spec a n s hn
    refine h.append hmove.susp (hmove.events.trans (List.append_assoc _ _ _)) ?_
    exact DirSafe.dirEvents_append _ a _ (inRunOf_of_mem_moveEvents a _ k _ _)

theorem DirSettled.relativeMove {s : State} (h : DirSettled s) (a : Axis) (n : Int) :
    DirSettled (relativeMove a n s) :=
  (h.moveAxis a n).txLine _

theorem DirSettled.absoluteDelta {s : State} (h : DirSettled s) (a : Axis) (t : Int) :
    DirSettled (absoluteDelta a t s).2 := by
  unfold Machine.absoluteDelta
  split
  · exact h
  · exact h.drawI32

theorem DirSettled.absoluteMove {s : State} (h : DirSettled s) (a : Axis) (t : Int) :
    DirSettled (absoluteMove a t s) :=
  ((h.absoluteDelta a t).moveAxis a _).txLine _

/-- A slice of a re-approach pulses without a SetDir, so it needs a settled DIR, and leaves one (42_homing.md R217). -/
theorem DirSettled.reapproach {s : State} (h : DirSettled s) {a : Axis} (ha : DirReady a s) :
    DirSettled (reapproach a s).2 ∧ DirReady a (reapproach a s).2 := by
  have hout := reapproach_spec a s
  cases hstatus : (Machine.reapproach a s).1 with
  | ok =>
    obtain ⟨m, -, hev, -⟩ := hout.onOk hstatus
    rw [List.append_assoc] at hev
    exact h.append_run ha hout.susp hev (List.forall_mem_append.2
      ⟨inRunOf_of_mem_reapproachRounds a m, List.forall_mem_singleton.2 (.read _ _)⟩)
  | err => exact absurd hstatus hout.notErr
  | running =>
    obtain ⟨-, hev, -⟩ := hout.onRunning hstatus
    exact h.append_run ha hout.susp hev (inRunOf_of_mem_reapproachRounds a _)

/-- `home(a)` (42_homing.md R221), however the model's step leaves it. -/
theorem DirSettled.home {s : State} (h : DirSettled s) (a : Axis) : DirSettled (home a s).2 := by
  have hout := home_spec a s
  cases hstatus : (Machine.home a s).1 with
  | ok =>
    obtain ⟨k, m, -, -, hev, -⟩ := hout.onOk hstatus
    rw [List.append_assoc] at hev
    exact h.append hout.susp hev ((dirSafe_homeEvents _ a k m).append (dirSafe_pinRead _ _))
  | err =>
    obtain ⟨-, hev, -⟩ := hout.onErr hstatus
    exact h.append hout.susp hev (dirSafe_seekFailEvents _ a _)
  | running =>
    obtain ⟨k, -, -, hev, -⟩ := hout.onRunning hstatus
    exact h.append hout.susp hev (dirSafe_homeEvents _ a k _)

/-- A homing left in its re-approach stands on a settled DIR. -/
theorem DirSettled.dirReady_home {s : State} (h : DirSettled s) {a : Axis} (hrun : (Machine.home a s).1 = .running) :
    DirReady a (Machine.home a s).2 := by
  obtain ⟨k, -, -, hev, -⟩ := (home_spec a s).onRunning hrun
  obtain ⟨x, hx⟩ := Option.ne_none_iff_exists'.1 (h.1 a)
  rw [DirReady, settling_trace_of_append a hev, hx, Option.bind_some, settling_homeEvents]

/-! The homing commands. -/

theorem DirSettled.reportHome {s : State} (h : DirSettled s) (a : Axis) (ok : Bool) :
    DirSettled (reportHome a ok s) := by
  unfold Machine.reportHome
  split
  · exact h.txLine _
  · exact h.txLine _

theorem DirSettled.homeAllEnd {s : State} (h : DirSettled s) (panOk tiltOk : Bool) :
    DirSettled (homeAllEnd panOk tiltOk s) := by
  unfold Machine.homeAllEnd
  dsimp only
  split
  · exact (h.reportHome .tilt tiltOk).txLine _
  · exact h.reportHome .tilt tiltOk

/-- The two outcomes of a call of `home`: it has returned and the command goes on, or the command is left suspended on a
settled DIR. -/
theorem DirSettled.afterHome {p : Suspended} {next : Bool → State → State} {r : HomeStatus × State}
    (h : DirSettled r.2) (hrun : r.1 = .running → DirReady p.axis r.2)
    (hnext : ∀ ok {u}, DirSettled u → DirSettled (next ok u)) : DirSettled (afterHome p next r) := by
  unfold Machine.afterHome
  split
  · exact hnext true h
  · exact hnext false h
  · exact h.setSusp_some (hrun ‹_›)

/-- A homing command from its announcement on. -/
theorem DirSettled.announcedHome {s : State} (h : DirSettled s) (p : Suspended) {next : Bool → State → State}
    (hnext : ∀ ok {u}, DirSettled u → DirSettled (next ok u)) :
    DirSettled (Machine.afterHome p next (Machine.home p.axis (s.txLine (homingLine p.axis)))) :=
  have hline := h.txLine (homingLine p.axis)
  (hline.home p.axis).afterHome hline.dirReady_home hnext

theorem DirSettled.homeAllTilt {s : State} (h : DirSettled s) (panOk : Bool) : DirSettled (homeAllTilt panOk s) :=
  h.announcedHome (.homeAllTilt panOk) fun ok _ hu => hu.homeAllEnd panOk ok

theorem DirSettled.homeAllAfterPan {s : State} (h : DirSettled s) (panOk : Bool) :
    DirSettled (homeAllAfterPan panOk s) := by
  unfold Machine.homeAllAfterPan
  dsimp only
  split
  · exact h.reportHome .pan panOk
  · exact (h.reportHome .pan panOk).homeAllTilt panOk

theorem DirSettled.rest {s : State} (h : DirSettled s) (p : Suspended) (ok : Bool) : DirSettled (p.rest ok s) := by
  cases p with
  | homePan => exact h.reportHome .pan ok
  | homeTilt => exact h.reportHome .tilt ok
  | homeAllPan => exact h.homeAllAfterPan ok
  | homeAllTilt panOk => exact h.homeAllEnd panOk ok

/-- A later slice of a suspended command: this is where the promise of `DirSettled` about `susp` is used. -/
theorem DirSettled.continueCommand {s : State} (h : DirSettled s) {p : Suspended} (hp : s.susp = some p) :
    DirSettled (continueCommand p s) := by
  have hready : DirReady p.axis (s.setSusp none) := h.2 p hp
  obtain ⟨hafter, hrun⟩ := h.setSusp_none.reapproach hready
  exact hafter.afterHome (fun _ => hrun) fun ok _ hu => hu.rest p ok

/-! Commands and steps. -/

theorem DirSettled.exec {i : Instr} {s t : State} (h : DirSettled s) (he : exec i s = .next t) : DirSettled t := by
  cases i <;> injection he with he <;> subst he
  case panRel n => exact h.relativeMove .pan n
  case tiltRel n => exact h.relativeMove .tilt n
  case panAbs target => exact h.absoluteMove .pan target
  case tiltAbs target => exact h.absoluteMove .tilt target
  case homePan => exact h.announcedHome .homePan fun ok _ hu => hu.reportHome .pan ok
  case homeTilt => exact h.announcedHome .homeTilt fun ok _ hu => hu.reportHome .tilt ok
  case homeAll => exact h.announcedHome .homeAllPan fun ok _ hu => hu.homeAllAfterPan ok
  case center => exact ((h.moveAxis .pan _).moveAxis .tilt _).txLine _
  case getPos => exact h.txLine _
  case getStatus =>
    exact ((((h.pinRead (.neg .pan)).pinRead (.pos .pan)).pinRead (.neg .tilt)).pinRead (.pos .tilt)).txLine _
  case ping => exact h.txLine _
  case unknown text => exact h.txLine _

theorem DirSettled.lineDraw {s : State} (h : DirSettled s) (line : List Byte) : DirSettled (lineDraw line s).2 := by
  unfold Machine.lineDraw
  split
  · exact h.drawI32
  · exact h

theorem DirSettled.beginCommand {s : State} (h : DirSettled s) : DirSettled s.beginCommand :=
  (h.setMphase .exec).setSusp_none

theorem DirSettled.endCommand {s : State} (h : DirSettled s) : DirSettled s.endCommand := by
  unfold State.endCommand
  split
  · exact h.release
  · exact h

theorem DirSettled.execStep {s : State} (h : DirSettled s) : DirSettled (execStep s) := by
  unfold Machine.execStep
  split
  · exact (h.continueCommand ‹_›).endCommand
  · exact h.release

/-- Settles O59, over the four things a step can have done (`step_cases`): boot and the poll pulse nothing, a command
writes DIR before it pulses, and a suspended one goes on from a settled DIR. -/
theorem stepKeepsDirBeforeStep : Obligations.StepKeepsDirBeforeStep := by
  intro s t h hstep
  cases step_cases hstep with
  | booted _ ht => exact ht ▸ (h.txLine _).setMphase .poll
  | polled _ _ ht => exact ht ▸ h.preempt
  | ran _ _ line i u _ _ he ht => exact ht ▸ ((h.preempt.lineDraw line).beginCommand.exec he).endCommand
  | continued _ ht => exact ht ▸ h.execStep

end Sys2Proof.Machine
end

section
/-!
PROOFS. What a whole step keeps, from what its units keep: the configuration (10_state.md R26), the trace (R42), the
rising edges of STEP (41_motion.md R170), and boot (70_reset_and_hazards.md R322).
-/

namespace Sys2Proof.Machine

/-- `R` holds across every unit of a command, across an action boundary and across the writes of the Dispatch Loop. -/
structure StepClosed (R : State → State → Prop) : Prop extends UnitClosed R where
  preempt : ∀ s, R s s.preempt
  setMphase : ∀ s v, R s (s.setMphase v)
  setReady : ∀ s v, R s (s.setReady v)

namespace StepClosed

variable {R : State → State → Prop} (h : StepClosed R)
include h

theorem release (s : State) : R s s.release :=
  h.trans (h.preempt s) (h.trans (h.setReady _ false) (h.setMphase _ .poll))

theorem endCommand (s : State) : R s s.endCommand := by
  unfold State.endCommand
  split
  · exact h.release s
  · exact h.refl s

theorem beginCommand (s : State) : R s s.beginCommand :=
  h.trans (h.setMphase s .exec) (h.setSusp _ none)

theorem lineDraw (line : List Byte) (s : State) : R s (lineDraw line s).2 := by
  unfold Machine.lineDraw
  split
  · exact h.drawI32 s
  · exact h.refl s

theorem execStep (s : State) : R s (execStep s) := by
  unfold Machine.execStep
  split
  · exact h.trans (h.continueCommand _ s) (h.endCommand _)
  · exact h.release s

/-- What the units and the writes of the Dispatch Loop keep, every step keeps. -/
theorem step {s t : State} (hs : step s = .next t) : R s t := by
  cases step_cases hs with
  | booted _ ht => exact ht ▸ h.trans (h.txLine s _) (h.setMphase _ .poll)
  | polled _ _ ht => exact ht ▸ h.preempt s
  | ran _ _ line i u _ _ he ht =>
    have hbegin := h.trans (h.preempt s) (h.trans (h.lineDraw line _) (h.beginCommand _))
    exact ht ▸ h.trans hbegin (h.trans (h.exec he) (h.endCommand u))
  | continued _ ht => exact ht ▸ h.execStep s

end StepClosed

/-! The configuration. -/

theorem stepClosed_cfg : StepClosed fun s t => t.cfg = s.cfg where
  refl _ := rfl
  trans hst htu := htu.trans hst
  pinRead := State.pinRead_cfg
  pulse := State.pulse_cfg
  setDir := State.setDir_cfg
  delay s := s.delay_cfg _
  txLine := State.txLine_cfg
  drawI32 := State.drawI32_cfg
  drawBound := State.drawBound_cfg
  setLoop := State.setLoop_cfg
  setPos := State.setPos_cfg
  setHomed := State.setHomed_cfg
  setHphase := State.setHphase_cfg
  setSusp := State.setSusp_cfg
  preempt := State.preempt_cfg
  setMphase := State.setMphase_cfg
  setReady := State.setReady_cfg

/-- Settles O8: no unit writes the configuration. -/
theorem stepNeverWritesConfiguration : Obligations.StepNeverWritesConfiguration :=
  fun _ _ hs => stepClosed_cfg.step hs

/-! The trace. -/

/-- The trace of `t` goes on from that of `s`. -/
def TraceExtends (s t : State) : Prop := ∃ es, t.trace = s.trace ++ es

theorem TraceExtends.refl (s : State) : TraceExtends s s := ⟨[], (List.append_nil _).symm⟩

theorem TraceExtends.trans {s t u : State} (hst : TraceExtends s t) (htu : TraceExtends t u) : TraceExtends s u := by
  obtain ⟨es, hes⟩ := hst
  obtain ⟨fs, hfs⟩ := htu
  exact ⟨es ++ fs, by rw [hfs, hes, List.append_assoc]⟩

theorem TraceExtends.of_eq {s t : State} (h : t.trace = s.trace) : TraceExtends s t := ⟨[], by simp [h]⟩

theorem TraceExtends.preempt (s : State) : TraceExtends s s.preempt := ⟨_, s.preempt_trace⟩

theorem TraceExtends.emit (s : State) (e : Event) : TraceExtends s (s.emit e) := ⟨_, s.emit_trace e⟩

theorem TraceExtends.delay (s : State) (d : Duration) : TraceExtends s (s.delay d) :=
  (TraceExtends.preempt s).trans (.emit _ _)

theorem TraceExtends.pinSet (s : State) (p : OutPin) : TraceExtends s (s.pinSet p) :=
  (TraceExtends.preempt s).trans ((TraceExtends.emit _ (.pinSet p)).trans (.of_eq (State.setLatch_trace _ p true)))

theorem TraceExtends.pinClear (s : State) (p : OutPin) : TraceExtends s (s.pinClear p) :=
  (TraceExtends.preempt s).trans ((TraceExtends.emit _ (.pinClear p)).trans (.of_eq (State.setLatch_trace _ p false)))

theorem TraceExtends.pinWrite (s : State) (p : OutPin) (v : Bit) : TraceExtends s (s.pinWrite p v) := by
  cases v
  · exact .pinClear s p
  · exact .pinSet s p

theorem TraceExtends.txBytes (bs : List Byte) (s : State) : TraceExtends s (s.txBytes bs) := by
  induction bs generalizing s with
  | nil => exact .refl s
  | cons b bs ih => exact ((TraceExtends.preempt s).trans (.emit _ (.tx b))).trans (ih (s.txByte b))

theorem stepClosed_traceExtends : StepClosed TraceExtends where
  refl := .refl
  trans := .trans
  pinRead s p := (TraceExtends.preempt s).trans (.trans (.of_eq (by simp)) (.emit _ _))
  pulse s a := (((TraceExtends.pinSet s _).trans (.delay _ _)).trans (.pinClear _ _)).trans (.delay _ _)
  setDir s a d := (TraceExtends.pinWrite s _ _).trans (.delay _ _)
  delay s := .delay s _
  txLine s _ := .txBytes _ s
  drawI32 _ := .of_eq (by simp)
  drawBound _ := .of_eq (by simp)
  setLoop _ _ := .of_eq rfl
  setPos _ _ _ := .of_eq rfl
  setHomed _ _ _ := .of_eq rfl
  setHphase _ _ _ := .of_eq rfl
  setSusp _ _ := .of_eq rfl
  preempt := .preempt
  setMphase _ _ := .of_eq rfl
  setReady _ _ := .of_eq rfl

/-- Settles O9: every unit appends its events, and the rest of a step writes no trace. -/
theorem traceOnlyGrows : Obligations.TraceOnlyGrows :=
  fun _ _ hs => stepClosed_traceExtends.step hs

/-! The rising edges. -/

theorem stepLevel_append (a : Axis) (v : Bit) (es fs : List Event) :
    stepLevel a v (es ++ fs) = (stepLevel a v es).bind fun w => stepLevel a w fs := by
  induction es generalizing v with
  | nil => rfl
  | cons e es ih =>
    simp only [List.cons_append, stepLevel]
    split_ifs <;> simp [ih]

/-- RX drives no pin, so MAIN's share of the trace decides the level of STEP. -/
theorem State.stepLevel_mainTrace (a : Axis) (v : Bit) (s : State) :
    stepLevel a v s.mainTrace = stepLevel a v s.trace := by
  unfold State.mainTrace
  induction s.trace generalizing v with
  | nil => rfl
  | cons e es ih =>
    cases hrx : e.isRx with
    | false => simp [hrx, stepLevel, ih]
    | true =>
      cases e with
      | rx b => simpa [hrx, stepLevel] using ih v
      | _ => cases hrx

/-- The events leave STEP of every axis low when it was low, and each pulse among them is a rising edge. -/
def EdgeSafe (es : List Event) : Prop := ∀ a, stepLevel a false es = some false

theorem RisingEdges.append {s t : State} {es : List Event} (h : RisingEdges s)
    (hev : t.mainTrace = s.mainTrace ++ es) (hes : EdgeSafe es) (hlow : ∀ a, t.stepOut.get a = false) :
    RisingEdges t := by
  intro a
  obtain ⟨hlevel, -⟩ := h a
  refine ⟨?_, hlow a⟩
  rw [← State.stepLevel_mainTrace, hev, stepLevel_append, State.stepLevel_mainTrace, hlevel, Option.bind_some, hes a]

/-- An operation that leaves MAIN's trace and the STEP latches keeps the rising edges. -/
theorem RisingEdges.of_eq {s t : State} (h : RisingEdges s) (hev : t.mainTrace = s.mainTrace)
    (hlatch : t.stepOut = s.stepOut) : RisingEdges t :=
  h.append (es := []) (by simp [hev]) (fun _ => rfl) (fun a => hlatch ▸ (h a).2)

theorem edgeSafe_pulseEvents (a : Axis) : EdgeSafe (pulseEvents a) := by
  intro b
  cases a <;> cases b <;> decide

theorem edgeSafe_dirEvents (c : Config) (a : Axis) (d : Dir) : EdgeSafe (dirEvents c a d) := by
  intro b
  unfold dirEvents
  split <;> simp [stepLevel]

theorem edgeSafe_lineEvents (c : Config) (text : List Byte) : EdgeSafe (lineEvents c text) := by
  intro a
  unfold lineEvents
  induction text ++ c.txEol with
  | nil => rfl
  | cons b bs ih => simpa [stepLevel] using ih

theorem edgeSafe_pinRead (p : InPin) (v : Bit) : EdgeSafe [.pinRead p v] := fun _ => by simp [stepLevel]

theorem edgeSafe_delay (d : Duration) : EdgeSafe [.delay d] := fun _ => by simp [stepLevel]

theorem stepClosed_risingEdges : StepClosed fun s t => RisingEdges s → RisingEdges t where
  refl _ := id
  trans hst htu := htu ∘ hst
  pinRead s p h := h.append (s.mainTrace_pinRead p) (edgeSafe_pinRead p _) fun a => by simpa using (h a).2
  pulse s a h := by
    refine h.append (s.mainTrace_pulse a) (edgeSafe_pulseEvents a) fun b => ?_
    rw [State.pulse_stepOut, PerAxis.get_set, (h b).2, ite_self]
  setDir s a d h := h.append (s.mainTrace_setDir a d) (edgeSafe_dirEvents _ a d) fun b => by simpa using (h b).2
  delay s h := h.append (s.mainTrace_delay _) (edgeSafe_delay _) fun a => by simpa using (h a).2
  txLine s text h := h.append (s.mainTrace_txLine text) (edgeSafe_lineEvents _ _) fun a => by simpa using (h a).2
  drawI32 _ h := h.of_eq (by simp) (by simp)
  drawBound _ h := h.of_eq (by simp) (by simp)
  setLoop _ _ h := h.of_eq rfl rfl
  setPos _ _ _ h := h.of_eq rfl rfl
  setHomed _ _ _ h := h.of_eq rfl rfl
  setHphase _ _ _ h := h.of_eq rfl rfl
  setSusp _ _ h := h.of_eq rfl rfl
  preempt _ h := h.of_eq (by simp) (by simp)
  setMphase _ _ h := h.of_eq rfl rfl
  setReady _ _ h := h.of_eq rfl rfl

/-- Settles O58: the only unit that raises STEP is the pulse, which begins and ends with STEP low. -/
theorem stepKeepsRisingEdges : Obligations.StepKeepsRisingEdges :=
  fun _ _ h hs => stepClosed_risingEdges.step hs h

end Sys2Proof.Machine
end

section
/-!
PROOFS. What a command leaves of the mailbox and of MAIN (20_memory.md R80, R85; 40_dispatch.md R145), the Dispatch Loop
step by step (R140 to R145), and boot (70_reset_and_hazards.md R322).
-/

namespace Sys2Proof.Machine

/-! The frame of every command. -/

/-- MAIN's phase and the configuration are kept, and the mailbox is while a line is pending. -/
structure CommandFrame (s t : State) : Prop where
  mphase : t.mphase = s.mphase
  cfg : t.cfg = s.cfg
  buf : s.ready = true → t.buf = s.buf
  cur : s.ready = true → t.cur = s.cur
  ready : s.ready = true → t.ready = s.ready

theorem CommandFrame.mailboxKept {s t : State} (h : CommandFrame s t) (hr : s.ready = true) : MailboxKept s t :=
  ⟨fun i => congrArg (Memory.read · i) (h.buf hr), h.cur hr, h.ready hr⟩

theorem CommandFrame.trans {s t u : State} (hst : CommandFrame s t) (htu : CommandFrame t u) : CommandFrame s u where
  mphase := htu.mphase.trans hst.mphase
  cfg := htu.cfg.trans hst.cfg
  buf hr := (htu.buf ((hst.ready hr).trans hr)).trans (hst.buf hr)
  cur hr := (htu.cur ((hst.ready hr).trans hr)).trans (hst.cur hr)
  ready hr := (htu.ready ((hst.ready hr).trans hr)).trans (hst.ready hr)

theorem unitClosed_commandFrame : UnitClosed CommandFrame where
  refl _ := ⟨rfl, rfl, fun _ => rfl, fun _ => rfl, fun _ => rfl⟩
  trans := .trans
  pinRead s p := ⟨by simp, by simp, State.pinRead_buf p, State.pinRead_cur p, State.pinRead_ready p⟩
  pulse s a := ⟨by simp, by simp, State.pulse_buf a, State.pulse_cur a, State.pulse_ready a⟩
  setDir s a d := ⟨by simp, by simp, State.setDir_buf a d, State.setDir_cur a d, State.setDir_ready a d⟩
  delay s := ⟨by simp, by simp, State.delay_buf _, State.delay_cur _, State.delay_ready _⟩
  txLine s t := ⟨by simp, by simp, State.txLine_buf t, State.txLine_cur t, State.txLine_ready t⟩
  drawI32 s := ⟨by simp, by simp, fun _ => by simp, fun _ => by simp, fun _ => by simp⟩
  drawBound s := ⟨by simp, by simp, fun _ => by simp, fun _ => by simp, fun _ => by simp⟩
  setLoop _ _ := ⟨rfl, rfl, fun _ => rfl, fun _ => rfl, fun _ => rfl⟩
  setPos _ _ _ := ⟨rfl, rfl, fun _ => rfl, fun _ => rfl, fun _ => rfl⟩
  setHomed _ _ _ := ⟨rfl, rfl, fun _ => rfl, fun _ => rfl, fun _ => rfl⟩
  setHphase _ _ _ := ⟨rfl, rfl, fun _ => rfl, fun _ => rfl, fun _ => rfl⟩
  setSusp _ _ := ⟨rfl, rfl, fun _ => rfl, fun _ => rfl, fun _ => rfl⟩

theorem CommandFrame.exec {i : Instr} {s t : State} (he : exec i s = .next t) : CommandFrame s t :=
  unitClosed_commandFrame.exec he

theorem CommandFrame.continueCommand (p : Suspended) (s : State) : CommandFrame s (continueCommand p s) :=
  unitClosed_commandFrame.continueCommand p s

theorem State.release_memRead {s : State} (i : Nat) (hr : s.ready = true) : s.release.memRead i = s.memRead i :=
  congrArg (Memory.read · i) (State.release_buf hr)

/-- The end of a command, after a body that kept the mailbox: the release, or the command left suspended (log 14). -/
theorem CommandFrame.endCommand {s u : State} (h : CommandFrame s u) (hr : s.ready = true) (hm : s.mphase = .exec) :
    Released s u.endCommand ∨
      (MailboxKept s u.endCommand ∧ u.endCommand.mphase = .exec ∧ u.endCommand.susp ≠ none ∧
        u.endCommand.cfg = s.cfg) := by
  have hru : u.ready = true := (h.ready hr).trans hr
  obtain ⟨hmem, hcur, -⟩ := h.mailboxKept hr
  cases hs : u.susp with
  | none =>
    rw [State.endCommand_of_none hs]
    exact .inl ⟨fun i => (State.release_memRead i hru).trans (hmem i), (State.release_cur hru).trans hcur, rfl, rfl,
      by simpa using hs, by simpa using h.cfg⟩
  | some p =>
    rw [State.endCommand_of_some hs]
    exact .inr ⟨h.mailboxKept hr, h.mphase.trans hm, by simp [hs], h.cfg⟩

/-! Which step is taken. -/

theorem State.cursorBad_of_ready {s : State} (hr : s.ready = true) : s.cursorBad = false := by
  simp [State.cursorBad, hr]

theorem State.cursorBad_of_lt {s : State} (h : s.cur < s.cfg.rxCap) : s.cursorBad = false := by
  simp [State.cursorBad, h]

theorem step_boot {s : State} (hm : s.mphase = .boot) (hc : s.cursorBad = false) : step s = .next (bootStep s) := by
  simp [step, phaseStep, hm, hc]

theorem step_poll {s : State} (hm : s.mphase = .poll) (hc : s.cursorBad = false) : step s = pollStep s := by
  simp [step, phaseStep, hm, hc]

theorem step_exec {s : State} (hm : s.mphase = .exec) (hc : s.cursorBad = false) : step s = .next (execStep s) := by
  simp [step, phaseStep, hm, hc]

theorem execStep_of_susp {s : State} {p : Suspended} (hs : s.susp = some p) :
    execStep s = (continueCommand p s).endCommand := by
  simp [execStep, hs]

theorem execStep_of_none {s : State} (hs : s.susp = none) : execStep s = s.release := by
  simp [execStep, hs]

/-- The poll sees a line that `fetch` returns. -/
theorem pollStep_of_fetch {s : State} {line : List Byte} (hr : s.preempt.ready = true)
    (hf : s.preempt.fetch = some line) : pollStep s = runLine line s.preempt := by
  simp [pollStep, hr, hf]

theorem pollStep_of_not_ready {s : State} (hr : s.preempt.ready = false) : pollStep s = .next s.preempt := by
  simp [pollStep, hr]

/-- While a line is pending, a boundary leaves what `fetch` returns. -/
theorem State.preempt_fetch {s : State} (hr : s.ready = true) : s.preempt.fetch = s.fetch := by
  simp [State.fetch, State.preempt_buf hr]

/-! What a step leaves of a pending line. -/

theorem execStep_released {s : State} (hr : s.ready = true) (hm : s.mphase = .exec) :
    Released s (execStep s) ∨ (MailboxKept s (execStep s) ∧ (execStep s).mphase = .exec ∧ (execStep s).susp ≠ none ∧
      (execStep s).cfg = s.cfg) := by
  cases hs : s.susp with
  | none =>
    have hend := (unitClosed_commandFrame.refl s).endCommand hr hm
    rwa [State.endCommand_of_none hs, ← execStep_of_none hs] at hend
  | some p =>
    rw [execStep_of_susp hs]
    exact (CommandFrame.continueCommand p s).endCommand hr hm

/-- Settles O52: each unit of a command keeps the mailbox while a line is pending, so every command and every later
slice does, up to the release. -/
theorem commandsKeepTheMailbox : Obligations.CommandsKeepTheMailbox := by
  refine ⟨fun i s t hr he => ?_, fun s t hm hr hs => ?_⟩
  · have h := CommandFrame.exec he
    exact ⟨h.mailboxKept hr, h.mphase, h.cfg⟩
  · rw [step_exec hm (State.cursorBad_of_ready hr)] at hs
    injection hs with hs
    exact hs ▸ execStep_released hr hm

/-- The state a command begins in, after the boundary of the poll's read and the line's draw. -/
theorem beginCommand_frame {s : State} (line : List Byte) (hr : s.ready = true) :
    (lineDraw line s.preempt).2.beginCommand.ready = true ∧
      (lineDraw line s.preempt).2.beginCommand.mphase = .exec ∧
      (lineDraw line s.preempt).2.beginCommand.buf = s.buf ∧
      (lineDraw line s.preempt).2.beginCommand.cur = s.cur := by
  simp [State.beginCommand, State.preempt_ready hr, State.preempt_buf hr, State.preempt_cur hr, hr]

/-- Settles O7: the command keeps the mailbox (`CommandFrame`), and its end releases it or leaves it as it is. -/
theorem commandStepReleasesMailbox : Obligations.CommandStepReleasesMailbox := by
  intro s t hm hr hs
  cases step_cases hs with
  | booted hb _ => simp [hm] at hb
  | polled _ hr' _ => simp [State.preempt_ready hr, hr] at hr'
  | continued hx _ => simp [hm] at hx
  | ran _ _ line i u _ _ he ht =>
    obtain ⟨hready, hphase, hbuf, hcur⟩ := beginCommand_frame line hr
    subst ht
    obtain ⟨hmem, hc, hrest⟩ | ⟨⟨hmem, hc, hrd⟩, hph, hsusp, -⟩ := (CommandFrame.exec he).endCommand hready hphase
    · obtain ⟨hrd, hph, hsusp, -⟩ := hrest
      exact ⟨fun j => (hmem j).trans (congrArg (Memory.read · j) hbuf), hc.trans hcur, .inl ⟨hsusp, hrd, hph⟩⟩
    · exact ⟨fun j => (hmem j).trans (congrArg (Memory.read · j) hbuf), hc.trans hcur,
        .inr ⟨hsusp, hrd.trans hready, hph⟩⟩

/-! Boot. -/

theorem State.endCommand_mphase_ne_boot {u : State} (h : u.mphase = .exec) : u.endCommand.mphase ≠ .boot := by
  unfold State.endCommand
  split <;> simp [h]

theorem execStep_mphase_ne_boot {s : State} (hm : s.mphase = .exec) : (execStep s).mphase ≠ .boot := by
  cases hs : s.susp with
  | none => simp [execStep_of_none hs]
  | some p =>
    rw [execStep_of_susp hs]
    exact State.endCommand_mphase_ne_boot ((CommandFrame.continueCommand p s).mphase.trans hm)

theorem step_mphase_ne_boot {s t : State} (hs : step s = .next t) : t.mphase ≠ .boot := by
  cases step_cases hs with
  | booted _ ht => simp [ht, bootStep]
  | polled hm _ ht => simp [ht, hm]
  | ran _ _ line i u _ _ he ht => exact ht ▸ State.endCommand_mphase_ne_boot (CommandFrame.exec he).mphase
  | continued hm ht => exact ht ▸ execStep_mphase_ne_boot hm

/-- Settles O2: the boot step is one transmitted line and the change to Poll; every other step ends in Poll or Exec. -/
theorem bootSendsReadyOnce : Obligations.BootSendsReadyOnce := by
  refine ⟨fun s hm hc => ⟨bootStep s, step_boot hm hc, rfl, ?_, ?_, ?_, ?_, ?_, ?_⟩, fun _ _ => step_mphase_ne_boot⟩
  all_goals simp [bootStep, AxisKept]

/-! The cycle. -/

/-- A step from the poll with a pending line that decodes is the command and its end (R140, R143). -/
theorem step_of_line {s t : State} {line : List Byte} {i : Instr} (hm : s.mphase = .poll) (hc : s.cursorBad = false)
    (hr : s.preempt.ready = true) (hf : s.preempt.fetch = some line)
    (hd : decode (lineDraw line s.preempt).1 line = .ok i)
    (he : exec i (lineDraw line s.preempt).2.beginCommand = .next t) : step s = .next t.endCommand := by
  rw [step_poll hm hc, pollStep_of_fetch hr hf, runLine_of_decode hd he]

/-- Settles O5: `step_of_line`, with the end of the command by whether it is suspended. -/
theorem stepRunsDecodedInstruction : Obligations.StepRunsDecodedInstruction := by
  intro s t line i hm hr hf hd he
  have hstep := step_of_line hm (State.cursorBad_of_ready hr) ((State.preempt_ready hr).trans hr)
    ((State.preempt_fetch hr).trans hf) hd he
  refine ⟨fun hs => ?_, fun hs => ?_⟩
  · rw [hstep, State.endCommand_of_none hs]
  · obtain ⟨p, hp⟩ := Option.ne_none_iff_exists'.1 hs
    rw [hstep, State.endCommand_of_some hp]

theorem lineOf_ne_nul (bytes : List Byte) : ∀ b ∈ lineOf bytes, b ≠ 0x00 := by
  intro b hb
  simpa using List.mem_takeWhile_imp hb

/-- An operand in range is read without the draw. -/
theorem parseInt_of_inI32 {line : List Byte} (free : BitVec 32) (h : InI32 (parseValue line)) :
    parseInt free line = parseValue line := if_pos h

/-- The draw decides nothing of a line that takes none. -/
theorem decode_congr_of_not_needsDraw {line : List Byte} (free free' : BitVec 32) (h : needsDraw line = false) :
    decode free line = decode free' line := by
  have hin : InI32 (parseValue (suffixOf line)) := by simpa [needsDraw] using h
  simp only [decode, decodeLine, parseInt_of_inI32 _ hin]

theorem decode_of_decodeTableWord {nbits w : Nat} {i : Instr} (h : decodeTableWord nbits w = some i) :
    decode (Config.freeI32 0) (tableLine nbits w) = .ok i := by
  unfold decodeTableWord at h
  split at h
  · rename_i j hj
    simpa [hj] using h
  · simp at h

/-- Settles O6: the placed word is what `fetch` returns, and its decoding depends on no draw. -/
theorem fetchWordIsRunNext : Obligations.FetchWordIsRunNext := by
  intro s t nbits w i hdraw hword he
  have hr : (s.withFetchWord nbits w).ready = true := rfl
  have hline := lineDraw_of_not_needsDraw (s := (s.withFetchWord nbits w).preempt) hdraw
  have hfetch : (s.withFetchWord nbits w).fetch = some (tableLine nbits w) :=
    State.fetch_placeLine s _ (lineOf_ne_nul _)
  refine step_of_line rfl (State.cursorBad_of_ready hr) ((State.preempt_ready hr).trans hr)
    ((State.preempt_fetch hr).trans hfetch) (i := i) ?_ (by rw [hline]; exact he)
  rw [decode_congr_of_not_needsDraw _ (Config.freeI32 0) hdraw]
  exact decode_of_decodeTableWord hword

/-! The quiescent machine (R152). -/

theorem Env.delivered.tail {e : Env} (h : e.delivered) : Env.delivered { e with arrivals := e.arrivals.tail } := by
  obtain ⟨hend, hempty⟩ := h
  exact ⟨hend, fun bs hbs => hempty bs (List.mem_of_mem_tail hbs)⟩

/-- Settles O3: with nothing to deliver the boundary before the read of `ready` only uses up ENV's script. -/
theorem quiescentPollChangesNothing : Obligations.QuiescentPollChangesNothing := by
  intro s hq hcur
  obtain ⟨hm, hr, hd⟩ := hq
  have hp := State.preempt_of_delivered hr hd
  refine ⟨?_, hm, hr, hd.tail⟩
  rw [step_poll hm (State.cursorBad_of_lt hcur), pollStep_of_not_ready (by rw [hp]; exact hr), hp]

end Sys2Proof.Machine
end

section
/-!
PROOFS. Decimal text and `parse_int` (30_encoding.md R111 to R114; 40_dispatch.md R147).
-/

namespace Sys2Proof.Machine

/-! Digits. -/

theorem readDigits_append {xs : List Byte} (m : Nat) (ys : List Byte) (h : xs.all isDigit = true) :
    readDigits m (xs ++ ys) = readDigits (readDigits m xs) ys := by
  induction xs generalizing m with
  | nil => rfl
  | cons b xs ih =>
    obtain ⟨hb, hxs⟩ : isDigit b = true ∧ xs.all isDigit = true := by simpa using h
    simp only [List.cons_append, readDigits, hb, if_true, ih _ hxs]

/-- Reading stops at a byte that is no digit. -/
theorem readDigits_of_head {s : List Byte} (m : Nat) (h : ∀ b ∈ s.head?, isDigit b = false) : readDigits m s = m := by
  cases s with
  | nil => rfl
  | cons b s => simp [readDigits, h b rfl]

theorem readDigits_zeros (n : Nat) : readDigits 0 (List.replicate n 0x30) = 0 := by
  induction n with
  | zero => rfl
  | succ n ih => simpa [List.replicate_succ, readDigits, isDigit] using ih

theorem all_isDigit_decNat (n : Nat) : (decNat n).all isDigit = true := by
  rw [decNat_eq, List.all_eq_true]
  intro b hb
  obtain ⟨d, hd, rfl⟩ := List.mem_map.1 hb
  exact isDigit_digitByte (digitsOf_lt n d hd)

theorem dec_natCast (m : Nat) : dec (m : Int) = decNat m := by simp [dec]

/-- The text of a natural behind leading zeros. -/
def zerosDec (zeros m : Nat) : List Byte := List.replicate zeros 0x30 ++ dec (m : Int)

theorem all_isDigit_zeros (zeros : Nat) : (List.replicate zeros (0x30 : Byte)).all isDigit = true := by
  rw [List.all_eq_true]
  intro b hb
  rw [List.eq_of_mem_replicate hb]
  decide

theorem all_isDigit_zerosDec (zeros m : Nat) : (zerosDec zeros m).all isDigit = true := by
  rw [zerosDec, dec_natCast, List.all_append, all_isDigit_zeros, all_isDigit_decNat, Bool.and_self]

theorem readDigits_zerosDec (zeros m : Nat) : readDigits 0 (zerosDec zeros m) = m := by
  rw [zerosDec, readDigits_append 0 _ (all_isDigit_zeros zeros), readDigits_zeros, dec_natCast, readDigits_decNat]

theorem zerosDec_ne_nil (zeros m : Nat) : zerosDec zeros m ≠ [] := by
  simp [zerosDec, dec_natCast, decNat_ne_nil]

/-! The number of a suffix. -/

theorem skipSpaces_replicate_append (n : Nat) (s : List Byte) :
    skipSpaces (List.replicate n 0x20 ++ s) = skipSpaces s := by
  simp [skipSpaces]

/-- Leading spaces do not count. -/
theorem parseValue_spaces (n : Nat) (s : List Byte) : parseValue (List.replicate n 0x20 ++ s) = parseValue s := by
  rw [parseValue, skipSpaces_replicate_append, parseValue]

theorem parseValue_minus (s : List Byte) : parseValue (0x2D :: s) = -(readDigits 0 s : Int) := by
  simp [parseValue, skipSpaces]

theorem parseValue_plus (s : List Byte) : parseValue (0x2B :: s) = (readDigits 0 s : Int) := by
  simp [parseValue, skipSpaces]

/-- Without a space or a sign at its head a suffix is read as digits at once. -/
theorem parseValue_unsigned {s : List Byte} (h : ∀ b ∈ s.head?, b ≠ 0x20 ∧ b ≠ 0x2D ∧ b ≠ 0x2B) :
    parseValue s = (readDigits 0 s : Int) := by
  cases s with
  | nil => rfl
  | cons b s =>
    obtain ⟨hspace, hminus, hplus⟩ := h b rfl
    have hskip : skipSpaces (b :: s) = b :: s := by simpa [skipSpaces] using hspace
    simp only [parseValue, hskip, if_neg hminus, if_neg hplus]

theorem readDigits_digits_append {ds tail : List Byte} (hds : ds.all isDigit = true)
    (htail : ∀ b ∈ tail.head?, isDigit b = false) : readDigits 0 (ds ++ tail) = readDigits 0 ds := by
  rw [readDigits_append 0 tail hds, readDigits_of_head _ htail]

/-- The head of a text that begins with a digit is no space and no sign. -/
theorem head_append_of_all_isDigit {ds : List Byte} (tail : List Byte) (hne : ds ≠ []) (hds : ds.all isDigit = true) :
    ∀ b ∈ (ds ++ tail).head?, b ≠ 0x20 ∧ b ≠ 0x2D ∧ b ≠ 0x2B := by
  cases ds with
  | nil => exact absurd rfl hne
  | cons d ds =>
    have hd : isDigit d = true := by
      rw [List.all_cons, Bool.and_eq_true] at hds
      exact hds.1
    intro b hb
    obtain rfl : d = b := Option.some.inj hb
    exact ⟨isDigit_ne hd (by decide), isDigit_ne hd (by decide), isDigit_ne hd (by decide)⟩

/-- What `parse_int` makes of the value it has read (R112, R113). -/
theorem parseInt_of_value {s : List Byte} {v : Int} (free : BitVec 32) (h : parseValue s = v) :
    parseInt free s = if InI32 v then v else free.toInt := by
  rw [parseInt, h]

/-- Settles O21: behind the spaces and the sign the digits are read up to the tail, and only the range test is left. -/
theorem parseIntReadsLeadingDecimal : Obligations.ParseIntReadsLeadingDecimal := by
  intro free m spaces zeros tail htail
  have hread : readDigits 0 (zerosDec zeros m ++ tail) = m := by
    rw [readDigits_digits_append (all_isDigit_zerosDec zeros m) htail, readDigits_zerosDec]
  have hplain : parseValue (List.replicate spaces 0x20 ++ (zerosDec zeros m ++ tail)) = m := by
    rw [parseValue_spaces, parseValue_unsigned
      (head_append_of_all_isDigit tail (zerosDec_ne_nil zeros m) (all_isDigit_zerosDec zeros m)), hread]
  have hplus : parseValue (List.replicate spaces 0x20 ++ 0x2B :: (zerosDec zeros m ++ tail)) = m := by
    rw [parseValue_spaces, parseValue_plus, hread]
  have hminus : parseValue (List.replicate spaces 0x20 ++ 0x2D :: (zerosDec zeros m ++ tail)) = -m := by
    rw [parseValue_spaces, parseValue_minus, hread]
  refine ⟨fun h => ⟨?_, ?_⟩, fun h => ⟨?_, ?_⟩, fun h => ?_, fun h => ?_⟩
  · exact (parseInt_of_value free hplain).trans (if_pos h)
  · exact (parseInt_of_value free hplus).trans (if_pos h)
  · exact (parseInt_of_value free hplain).trans (if_neg h)
  · exact (parseInt_of_value free hplus).trans (if_neg h)
  · exact (parseInt_of_value free hminus).trans (if_pos h)
  · exact (parseInt_of_value free hminus).trans (if_neg h)

/-- Settles O22: the digit loop stops at once, and 0 is an i32. -/
theorem nonNumericSuffixIsZero : Obligations.NonNumericSuffixIsZero := by
  intro free spaces tail htail
  have hread : readDigits 0 tail = 0 := readDigits_of_head 0 htail
  refine ⟨?_, ?_, fun hhead => ?_⟩
  · exact parseInt_of_value free (v := 0) (by rw [parseValue_spaces, parseValue_minus, hread]; rfl)
  · exact parseInt_of_value free (v := 0) (by rw [parseValue_spaces, parseValue_plus, hread]; rfl)
  · exact parseInt_of_value free (v := 0) (by rw [parseValue_spaces, parseValue_unsigned hhead, hread]; rfl)

/-! The shortest text (R147). -/

theorem digitByte_eq_zero {d : Nat} (hd : d < 10) (h : digitByte d = 0x30) : d = 0 := by
  have hnat := congrArg BitVec.toNat h
  rw [digitByte_toNat hd] at hnat
  simpa using hnat

/-- The first digit of a number other than 0 is not 0. -/
theorem head_digitsOf_ne_zero {n : Nat} (hn : n ≠ 0) : (digitsOf n).head? ≠ some 0 := by
  have hne : Nat.digits 10 n ≠ [] := by simpa [Nat.digits_eq_nil_iff_eq_zero] using hn
  have hlast := Nat.getLast_digit_ne_zero 10 hn
  rw [digitsOf, if_neg hn, List.head?_reverse, List.getLast?_eq_some_getLast hne]
  simpa using hlast

theorem decNat_of_head_zero {n : Nat} (h : (decNat n).head? = some 0x30) : decNat n = [0x30] := by
  by_cases hn : n = 0
  · subst hn
    rfl
  · rw [decNat_eq, List.head?_map, Option.map_eq_some_iff] at h
    obtain ⟨d, hd, hzero⟩ := h
    have hlt := digitsOf_lt n d (List.mem_of_mem_head? hd)
    exact absurd (digitByte_eq_zero hlt hzero ▸ hd) (head_digitsOf_ne_zero hn)

/-- Settles O24: the digits are those of the magnitude, most significant first. -/
theorem decIsShortestDecimal : Obligations.DecIsShortestDecimal := by
  intro v
  refine ⟨decNat v.natAbs, ?_, all_isDigit_decNat _, readDigits_decNat _, decNat_of_head_zero, decNat_ne_nil _⟩
  unfold dec
  split <;> rfl

end Sys2Proof.Machine
end

section
/-!
PROOFS. The opcode map: each row's line decodes to its command, and no line matches two rows (30_encoding.md R105, R108
to R110, R116).
-/

namespace Sys2Proof.Machine

/-! Which rows match a line. -/

theorem beginsWith_iff (pre line : List Byte) : beginsWith pre line = true ↔ pre <+: line := by
  simp [beginsWith]

theorem beginsWith_append (pre s : List Byte) : beginsWith pre (pre ++ s) = true :=
  (beginsWith_iff _ _).2 (List.prefix_append pre s)

/-- A line cannot begin with two texts of which neither begins with the other. -/
theorem not_beginsWith_of_beginsWith {p q line : List Byte} (hp : beginsWith p line = true)
    (hpq : beginsWith p q = false) (hqp : beginsWith q p = false) : beginsWith q line = false := by
  rw [Bool.eq_false_iff]
  intro hq
  rw [beginsWith_iff] at hp hq
  obtain h | h := List.prefix_or_prefix_of_prefix hp hq
  · simp [(beginsWith_iff p q).2 h] at hpq
  · simp [(beginsWith_iff q p).2 h] at hqp

/-- The match strings of the four P rows, which end in their colon. -/
def prefixRows : List (List Byte) := [prefixPanRel, prefixTiltRel, prefixPanAbs, prefixTiltAbs]

/-- The match strings of the seven L rows. -/
def literalRows : List (List Byte) :=
  [literalHomePan, literalHomeTilt, literalHomeAll, literalCenter, literalGetPos, literalGetStatus, literalPing]

/-- No row's text begins with that of another. -/
theorem pairwise_prefixRows :
    prefixRows.Pairwise fun p q => beginsWith p q = false ∧ beginsWith q p = false := by decide

theorem not_beginsWith_literalRows : ∀ p ∈ prefixRows, ∀ l ∈ literalRows, beginsWith p l = false := by decide

theorem nodup_literalRows : literalRows.Nodup := by decide

/-- Of things no two of which can be true together, at most one is. -/
theorem length_filter_le_one {α : Type} {P : α → Bool} {l : List α}
    (h : l.Pairwise fun a b => P a = true → P b = false) : (l.filter P).length ≤ 1 := by
  induction l with
  | nil => simp
  | cons a l ih =>
    obtain ⟨hhead, htail⟩ := List.pairwise_cons.1 h
    by_cases ha : P a = true
    · have hnil : l.filter P = [] := List.filter_eq_nil_iff.2 fun b hb => by simp [hhead b hb ha]
      simp [ha, hnil]
    · rw [List.filter_cons_of_neg ha]
      exact ih htail

theorem length_filter_prefixRows (line : List Byte) : (prefixRows.filter fun p => beginsWith p line).length ≤ 1 :=
  length_filter_le_one (pairwise_prefixRows.imp fun hpq hp => not_beginsWith_of_beginsWith hp hpq.1 hpq.2)

theorem length_filter_literalRows (line : List Byte) : (literalRows.filter fun l => line == l).length ≤ 1 := by
  refine length_filter_le_one (nodup_literalRows.imp fun {l l'} hne hl => ?_)
  simpa [eq_of_beq hl] using hne

/-- Settles O19: two P rows, or two L rows, exclude one another; and no L row's text begins with that of a P row. -/
theorem atMostOneRowMatches : Obligations.AtMostOneRowMatches := by
  intro line
  change (prefixRows.filter fun p => beginsWith p line).length +
    (literalRows.filter fun l => line == l).length ≤ 1
  by_cases hlit : line ∈ literalRows
  · have hnil : (prefixRows.filter fun p => beginsWith p line) = [] :=
      List.filter_eq_nil_iff.2 fun p hp => by simp [not_beginsWith_literalRows p hp line hlit]
    rw [hnil, List.length_nil, Nat.zero_add]
    exact length_filter_literalRows line
  · have hnil : (literalRows.filter fun l => line == l) = [] :=
      List.filter_eq_nil_iff.2 fun l hl hbeq => hlit (eq_of_beq hbeq ▸ hl)
    rw [hnil, List.length_nil, Nat.add_zero]
    exact length_filter_prefixRows line

/-! Each row decodes to its command. -/

theorem suffixOf_panRel (s : List Byte) : suffixOf (prefixPanRel ++ s) = s := by
  simp [suffixOf, beginsWith_append]

theorem suffixOf_tiltRel (s : List Byte) : suffixOf (prefixTiltRel ++ s) = s := by
  have h1 : beginsWith prefixPanRel (prefixTiltRel ++ s) = false := rfl
  simp [suffixOf, beginsWith_append, h1]

theorem suffixOf_panAbs (s : List Byte) : suffixOf (prefixPanAbs ++ s) = s := by
  have h1 : beginsWith prefixPanRel (prefixPanAbs ++ s) = false := rfl
  have h2 : beginsWith prefixTiltRel (prefixPanAbs ++ s) = false := rfl
  simp [suffixOf, beginsWith_append, h1, h2]

theorem suffixOf_tiltAbs (s : List Byte) : suffixOf (prefixTiltAbs ++ s) = s := by
  have h1 : beginsWith prefixPanRel (prefixTiltAbs ++ s) = false := rfl
  have h2 : beginsWith prefixTiltRel (prefixTiltAbs ++ s) = false := rfl
  have h3 : beginsWith prefixPanAbs (prefixTiltAbs ++ s) = false := rfl
  simp [suffixOf, beginsWith_append, h1, h2, h3]

theorem decodeLine_panRel (free : BitVec 32) (s : List Byte) :
    decodeLine free (prefixPanRel ++ s) = .panRel (parseInt free s) := by
  rw [decodeLine, if_pos (beginsWith_append _ s), suffixOf_panRel]

theorem decodeLine_tiltRel (free : BitVec 32) (s : List Byte) :
    decodeLine free (prefixTiltRel ++ s) = .tiltRel (parseInt free s) := by
  have h1 : beginsWith prefixPanRel (prefixTiltRel ++ s) = false := rfl
  simp [decodeLine, beginsWith_append, h1, suffixOf_tiltRel]

theorem decodeLine_panAbs (free : BitVec 32) (s : List Byte) :
    decodeLine free (prefixPanAbs ++ s) = .panAbs (parseInt free s) := by
  have h1 : beginsWith prefixPanRel (prefixPanAbs ++ s) = false := rfl
  have h2 : beginsWith prefixTiltRel (prefixPanAbs ++ s) = false := rfl
  simp [decodeLine, beginsWith_append, h1, h2, suffixOf_panAbs]

theorem decodeLine_tiltAbs (free : BitVec 32) (s : List Byte) :
    decodeLine free (prefixTiltAbs ++ s) = .tiltAbs (parseInt free s) := by
  have h1 : beginsWith prefixPanRel (prefixTiltAbs ++ s) = false := rfl
  have h2 : beginsWith prefixTiltRel (prefixTiltAbs ++ s) = false := rfl
  have h3 : beginsWith prefixPanAbs (prefixTiltAbs ++ s) = false := rfl
  simp [decodeLine, beginsWith_append, h1, h2, h3, suffixOf_tiltAbs]

/-- What no row matches is Unknown (R109, R115). -/
theorem decodeLine_unmatched {line : List Byte} (free : BitVec 32) (h : textUnmatched line = true) :
    decodeLine free line = .unknown line := by
  simp only [textUnmatched, matchesPrefix, matchesLiteral, Bool.and_eq_true, Bool.not_eq_true', Bool.or_eq_false_iff,
    beq_eq_false_iff_ne] at h
  obtain ⟨⟨⟨⟨p1, p2⟩, p3⟩, p4⟩, ⟨⟨⟨⟨⟨l1, l2⟩, l3⟩, l4⟩, l5⟩, l6⟩, l7⟩ := h
  simp [decodeLine, p1, p2, p3, p4, l1, l2, l3, l4, l5, l6, l7]

theorem suffixOf_unmatched {line : List Byte} (h : textUnmatched line = true) : suffixOf line = [] := by
  simp only [textUnmatched, matchesPrefix, Bool.and_eq_true, Bool.not_eq_true', Bool.or_eq_false_iff] at h
  obtain ⟨⟨⟨⟨p1, p2⟩, p3⟩, p4⟩, -⟩ := h
  simp [suffixOf, p1, p2, p3, p4]

/-! Lines. -/

theorem decode_of_line {line : List Byte} (free : BitVec 32) (hne : line ≠ []) (hp : line.all isPrintable = true) :
    decode free line = .ok (decodeLine free line) := by
  rw [decode, if_neg hne, if_pos hp]

/-- Settles O20: the four rows, each with the suffix behind its colon. -/
theorem prefixRowsParseTheSuffix : Obligations.PrefixRowsParseTheSuffix := by
  intro free s hs
  have hline : ∀ pre : List Byte, pre ≠ [] → pre.all isPrintable = true →
      decode free (pre ++ s) = .ok (decodeLine free (pre ++ s)) := fun pre hne hp =>
    decode_of_line free (by simp [hne]) (by rw [List.all_append, hp, hs, Bool.and_self])
  refine ⟨?_, ?_, ?_, ?_⟩
  · exact (hline prefixPanRel (by decide) (by decide)).trans (congrArg _ (decodeLine_panRel free s))
  · exact (hline prefixTiltRel (by decide) (by decide)).trans (congrArg _ (decodeLine_tiltRel free s))
  · exact (hline prefixPanAbs (by decide) (by decide)).trans (congrArg _ (decodeLine_panAbs free s))
  · exact (hline prefixTiltAbs (by decide) (by decide)).trans (congrArg _ (decodeLine_tiltAbs free s))

/-- The line of a well-formed command is a line (R100). -/
theorem encode_isLine {i : Instr} (h : i.wellFormed = true) : encode i ≠ [] ∧ (encode i).all isPrintable = true := by
  cases i with
  | panRel n => exact Laws.EncodePrintable.panRel n h
  | tiltRel n => exact Laws.EncodePrintable.tiltRel n h
  | panAbs t => exact Laws.EncodePrintable.panAbs t h
  | tiltAbs t => exact Laws.EncodePrintable.tiltAbs t h
  | homePan => exact Laws.EncodePrintable.homePan h
  | homeTilt => exact Laws.EncodePrintable.homeTilt h
  | homeAll => exact Laws.EncodePrintable.homeAll h
  | center => exact Laws.EncodePrintable.center h
  | getPos => exact Laws.EncodePrintable.getPos h
  | getStatus => exact Laws.EncodePrintable.getStatus h
  | ping => exact Laws.EncodePrintable.ping h
  | unknown text => exact Laws.EncodePrintable.unknown text h

/-- An operand in range is read back from its decimal text, whatever the draw. -/
theorem parseInt_dec {n : Int} (free : BitVec 32) (h : operandOk n = true) : parseInt free (dec n) = n :=
  (parseInt_of_value free (parseValue_dec n)).trans (if_pos (of_decide_eq_true h))

theorem textUnmatched_of_wellFormed {text : List Byte} (h : (Instr.unknown text).wellFormed = true) :
    textUnmatched text = true :=
  (Bool.and_eq_true_iff.1 h).2

theorem decodeLine_encode {i : Instr} (free : BitVec 32) (h : i.wellFormed = true) :
    decodeLine free (encode i) = i := by
  cases i with
  | panRel n => exact (decodeLine_panRel free _).trans (congrArg _ (parseInt_dec free h))
  | tiltRel n => exact (decodeLine_tiltRel free _).trans (congrArg _ (parseInt_dec free h))
  | panAbs t => exact (decodeLine_panAbs free _).trans (congrArg _ (parseInt_dec free h))
  | tiltAbs t => exact (decodeLine_tiltAbs free _).trans (congrArg _ (parseInt_dec free h))
  | unknown text => exact decodeLine_unmatched free (textUnmatched_of_wellFormed h)
  | _ => rfl

/-- Settles O17: the line of a well-formed command is a line, and its row gives the command back. -/
theorem encodeThenDecodeIsIdentity : Obligations.EncodeThenDecodeIsIdentity := by
  intro free i h
  obtain ⟨hne, hp⟩ := encode_isLine h
  rw [decode_of_line free hne hp, decodeLine_encode free h]

theorem needsDraw_of_suffixOf_eq_dec {line : List Byte} {n : Int} (hs : suffixOf line = dec n)
    (hn : operandOk n = true) : needsDraw line = false := by
  rw [needsDraw, hs, parseValue_dec]
  simpa [operandOk] using hn

/-- The line of a well-formed command holds no out-of-range number (R113). -/
theorem needsDraw_encode {i : Instr} (h : i.wellFormed = true) : needsDraw (encode i) = false := by
  cases i with
  | panRel n => exact needsDraw_of_suffixOf_eq_dec (suffixOf_panRel (dec n)) h
  | tiltRel n => exact needsDraw_of_suffixOf_eq_dec (suffixOf_tiltRel (dec n)) h
  | panAbs t => exact needsDraw_of_suffixOf_eq_dec (suffixOf_panAbs (dec t)) h
  | tiltAbs t => exact needsDraw_of_suffixOf_eq_dec (suffixOf_tiltAbs (dec t)) h
  | unknown text =>
    rw [encode, needsDraw, suffixOf_unmatched (textUnmatched_of_wellFormed h)]
    decide
  | _ => decide

/-! Every line has a command. -/

theorem inI32_toInt (free : BitVec 32) : InI32 free.toInt := by
  have hlo := BitVec.le_toInt free
  have hhi := BitVec.toInt_lt (x := free)
  simp only [InI32, i32Min, i32Max]
  omega

theorem operandOk_parseInt (free : BitVec 32) (s : List Byte) : operandOk (parseInt free s) = true := by
  rw [operandOk, decide_eq_true_iff, parseInt]
  split
  · assumption
  · exact inI32_toInt free

/-- What the decoder makes of a line is well-formed: an operand is in range, and a text is one no row matches. -/
theorem wellFormed_decodeLine {line : List Byte} (free : BitVec 32) (hne : line ≠ [])
    (hp : line.all isPrintable = true) : (decodeLine free line).wellFormed = true := by
  by_cases hun : textUnmatched line = true
  · have hline : textIsLine line = true := by
      rw [textIsLine, hp, Bool.and_true]
      simpa using hne
    rw [decodeLine_unmatched free hun, Instr.wellFormed, hline, hun, Bool.and_self]
  · have hrow : matchesPrefix line = true ∨ matchesLiteral line = true := by
      simpa [textUnmatched, or_iff_not_imp_left] using hun
    obtain hpre | hlit := hrow
    · simp only [matchesPrefix, Bool.or_eq_true, beginsWith_iff] at hpre
      obtain ((⟨s, rfl⟩ | ⟨s, rfl⟩) | ⟨s, rfl⟩) | ⟨s, rfl⟩ := hpre
      · exact decodeLine_panRel free s ▸ operandOk_parseInt free s
      · exact decodeLine_tiltRel free s ▸ operandOk_parseInt free s
      · exact decodeLine_panAbs free s ▸ operandOk_parseInt free s
      · exact decodeLine_tiltAbs free s ▸ operandOk_parseInt free s
    · simp only [matchesLiteral, Bool.or_eq_true, beq_iff_eq] at hlit
      obtain (((((rfl | rfl) | rfl) | rfl) | rfl) | rfl) | rfl := hlit <;> rfl

/-- Settles O18: a line decodes by `decode_of_line`, to a well-formed command by `wellFormed_decodeLine`; the two
rejections are the first and the last branch of `decode`. -/
theorem everyLineDecodesWellFormed : Obligations.EveryLineDecodesWellFormed := by
  intro free line
  refine ⟨fun hne hp => ⟨_, decode_of_line free hne hp, wellFormed_decodeLine free hne hp⟩, fun hnil => ?_,
    fun hne hp => ?_⟩
  · rw [decode, if_pos hnil]
  · rw [decode, if_neg hne, if_neg (by simp [hp])]

/-- Settles O23: five closed words, each run through the decoder. -/
theorem decoderReadsTheTableWords : Obligations.DecoderReadsTheTableWords := by
  unfold Obligations.DecoderReadsTheTableWords
  refine ⟨?_, ?_, ?_, ?_, ?_⟩ <;> decide

end Sys2Proof.Machine
end

section
/-!
PROOFS. The Frame Receiver byte by byte (20_memory.md R69 to R73), and the bytes of a line on the wire (30_encoding.md
R102, R116, R117).
-/

namespace Sys2Proof.Machine

theorem isTerminator_iff (b : Byte) : isTerminator b = true ↔ b = 0x0D ∨ b = 0x0A := by simp [isTerminator]

theorem isPrintable_iff (b : Byte) : isPrintable b = true ↔ 0x20 ≤ b.toNat ∧ b.toNat ≤ 0x7E := by simp [isPrintable]

theorem not_isTerminator_of_isPrintable {b : Byte} (h : isPrintable b = true) : isTerminator b = false := by
  rw [Bool.eq_false_iff, ne_eq, isTerminator_iff]
  rintro (rfl | rfl)
  · exact absurd h (by decide)
  · exact absurd h (by decide)

theorem State.memRead_emit (s : State) (e : Event) (i : Nat) : (s.emit e).memRead i = s.memRead i := rfl

/-! What the interrupt does with a byte while no line is pending, by the branches of R70 to R73. -/

theorem State.receive_of_empty {s : State} {b : Byte} (hr : s.ready = false) (hb : isTerminator b = true)
    (hc : s.cur = 0) : s.receive b = (s.emit (.rx b)).memWrite 0 0x00 := by
  simp [State.receive_eq, State.frameReceiver, hr, hb, hc]

theorem State.receive_of_terminator {s : State} {b : Byte} (hr : s.ready = false) (hb : isTerminator b = true)
    (hc : s.cur ≠ 0) : s.receive b = (((s.emit (.rx b)).memWrite s.cur 0x00).setReady true).setCur 0 := by
  simp [State.receive_eq, State.frameReceiver, hr, hb, hc]

theorem State.receive_of_stored {s : State} {b : Byte} (hr : s.ready = false) (hb : isPrintable b = true)
    (hc : s.cur < s.cfg.rxCap - 1) : s.receive b = ((s.emit (.rx b)).memWrite s.cur b).setCur (s.cur + 1) := by
  simp [State.receive_eq, State.frameReceiver, hr, not_isTerminator_of_isPrintable hb, hb, hc]

theorem State.receive_of_dropped {s : State} {b : Byte} (hr : s.ready = false) (hb : isTerminator b = false)
    (hc : ¬(isPrintable b = true ∧ s.cur < s.cfg.rxCap - 1)) : s.receive b = s.emit (.rx b) := by
  simp only [State.receive_eq, State.frameReceiver, State.emit_ready, hr, hb, Bool.false_eq_true, if_false]
  refine if_neg fun hroom => hc ?_
  obtain ⟨hprint, hlt⟩ := Bool.and_eq_true_iff.1 hroom
  exact ⟨hprint, of_decide_eq_true hlt⟩

/-- Settles O11: the two branches of R70, the NUL written at the cursor in both. -/
theorem terminatorEndsTheLine : Obligations.TerminatorEndsTheLine := by
  intro s b hr hcur hb
  have hterm := (isTerminator_iff b).2 hb
  by_cases hc : s.cur = 0
  · rw [State.receive_of_empty hr hterm hc]
    refine ⟨fun i => ?_, by simpa using hc, by simp [hc, hr]⟩
    rw [State.memRead_memWrite _ _ _ (show 0 < (s.emit (.rx b)).cfg.rxCap from hc ▸ hcur), hc, State.memRead_emit]
  · rw [State.receive_of_terminator hr hterm hc]
    exact ⟨fun i => State.memRead_memWrite (s.emit (.rx b)) i 0x00 hcur, rfl, by simp [hc]⟩

/-- Settles O12: the byte is stored (R71) or dropped (R72, R73). -/
theorem otherBytesAreStoredOrDropped : Obligations.OtherBytesAreStoredOrDropped := by
  intro s b hr hcr hlf
  have hterm : isTerminator b = false := by
    rw [Bool.eq_false_iff, ne_eq, isTerminator_iff]
    exact not_or.2 ⟨hcr, hlf⟩
  refine ⟨fun ⟨hlo, hhi, hc⟩ => ?_, fun h => ?_⟩
  · rw [State.receive_of_stored hr ((isPrintable_iff b).2 ⟨hlo, hhi⟩) hc]
    exact ⟨fun i => State.memRead_memWrite (s.emit (.rx b)) i b (show s.cur < s.cfg.rxCap by omega), rfl,
      by simpa using hr⟩
  · rw [State.receive_of_dropped hr hterm (by rwa [isPrintable_iff, and_assoc])]
    exact ⟨fun _ => rfl, rfl, hr⟩

/-! Deliveries. -/

theorem State.deliver_append (s : State) (xs ys : List Byte) : s.deliver (xs ++ ys) = (s.deliver xs).deliver ys := by
  simp only [State.deliver_eq_foldl, List.foldl_append]

theorem State.deliver_singleton (s : State) (b : Byte) : s.deliver [b] = s.receive b := by
  simp [State.deliver_eq_foldl]

/-- Settles O15: the CR makes the line pending, so the LF only leaves its event; without a partial line the LF is an
empty line. -/
theorem crLfMakesOneLine : Obligations.CrLfMakesOneLine := by
  intro s hr hcur
  refine ⟨fun hpos => ?_, fun hc => ?_⟩
  · obtain ⟨-, hzero, hready⟩ := terminatorEndsTheLine s 0x0D hr hcur (.inl rfl)
    have hrdy : (s.receive 0x0D).ready = true := by rw [hready]; simpa using Nat.ne_of_gt hpos
    have hlf : s.deliver [0x0D, 0x0A] = (s.receive 0x0D).emit (.rx 0x0A) := by
      rw [← State.receive_of_ready 0x0A hrdy, ← State.deliver_singleton s 0x0D, ← State.deliver_singleton,
        ← State.deliver_append]
      rfl
    rw [hlf, State.deliver_singleton]
    exact ⟨hrdy, hzero, fun _ => rfl⟩
  · obtain ⟨-, hzero, hready⟩ := terminatorEndsTheLine s 0x0A hr hcur (.inr rfl)
    rw [State.deliver_singleton]
    exact ⟨by simpa [hc] using hready, hzero⟩

/-! The line under assembly. -/

/-- RX has stored `text` and no terminator yet (10_state.md R35 (iii)). -/
structure Assembled (s : State) (text : List Byte) : Prop where
  ready : s.ready = false
  cur : s.cur = text.length
  reads : ∀ i, i < text.length → s.memRead i = text[i]?
  fits : text.length ≤ s.cfg.rxCap - 1
  printable : text.all isPrintable = true

theorem Assembled.nil {s : State} (hr : s.ready = false) (hc : s.cur = 0) : Assembled s [] :=
  ⟨hr, hc, by simp, by simp, rfl⟩

/-- A byte with room goes behind the line (R71). -/
theorem Assembled.store {s : State} {text : List Byte} (h : Assembled s text) {b : Byte} (hb : isPrintable b = true)
    (hroom : text.length < s.cfg.rxCap - 1) : Assembled (s.receive b) (text ++ [b]) := by
  rw [State.receive_of_stored h.ready hb (h.cur ▸ hroom)]
  refine ⟨by simpa using h.ready, by simp [h.cur], fun i hi => ?_, by simp; omega, by simp [h.printable, hb]⟩
  have hcap : text.length < s.cfg.rxCap := by omega
  have hread := State.memRead_memWrite (s.emit (.rx b)) i b (i := s.cur) (show s.cur < s.cfg.rxCap from h.cur ▸ hcap)
  refine hread.trans ?_
  rw [List.length_append, List.length_singleton] at hi
  by_cases hend : i = text.length
  · simp [h.cur, hend]
  · have hlt : i < text.length := by omega
    rw [if_neg (h.cur ▸ hend), State.memRead_emit, h.reads i hlt, List.getElem?_append_left hlt]

/-- Any other byte but a terminator leaves the line (R72, R73). -/
theorem Assembled.drop {s : State} {text : List Byte} (h : Assembled s text) {b : Byte}
    (hterm : isTerminator b = false) (hb : ¬(isPrintable b = true ∧ text.length < s.cfg.rxCap - 1)) :
    Assembled (s.receive b) text := by
  rw [State.receive_of_dropped h.ready hterm (h.cur ▸ hb)]
  exact ⟨h.ready, h.cur, h.reads, h.fits, h.printable⟩

/-- One byte on the wire, where `sent` are the printable bytes sent so far, those beyond the capacity included. -/
theorem Assembled.receive {s : State} {sent : List Byte} (h : Assembled s (sent.take (s.cfg.rxCap - 1))) {b : Byte}
    (hterm : isTerminator b = false) :
    Assembled (s.receive b) ((sent ++ [b].filter isPrintable).take (s.cfg.rxCap - 1)) := by
  by_cases hb : isPrintable b = true
  · rw [List.filter_cons_of_pos hb, List.filter_nil]
    by_cases hroom : sent.length < s.cfg.rxCap - 1
    · rw [List.take_of_length_le (le_of_lt hroom)] at h
      rw [List.take_of_length_le (by simpa using hroom)]
      exact h.store hb hroom
    · rw [List.take_append_of_le_length (by omega)]
      refine h.drop hterm fun ⟨_, hlt⟩ => hroom ?_
      rw [List.length_take] at hlt
      omega
  · rw [List.filter_cons_of_neg hb, List.filter_nil, List.append_nil]
    exact h.drop hterm fun hlt => hb hlt.1

theorem Assembled.deliver {w sent : List Byte} {s : State} (h : Assembled s (sent.take (s.cfg.rxCap - 1)))
    (hw : w.all (fun b => !isTerminator b) = true) :
    Assembled (s.deliver w) ((sent ++ w.filter isPrintable).take (s.cfg.rxCap - 1)) := by
  induction w generalizing s sent with
  | nil => simpa [State.deliver_eq_foldl] using h
  | cons b w ih =>
    obtain ⟨hb, hrest⟩ : isTerminator b = false ∧ w.all (fun b => !isTerminator b) = true := by simpa using hw
    have hstep := h.receive hb
    rw [← State.receive_cfg s b] at hstep
    have hdone := ih hstep hrest
    rw [State.receive_cfg, List.append_assoc, ← List.filter_append] at hdone
    rwa [show b :: w = [b] ++ w from rfl, State.deliver_append, State.deliver_singleton]

/-! The terminator. -/

theorem lineAt_of_reads {m : Memory} {text : List Byte} {i : Nat}
    (hreads : ∀ j, j < text.length → m.read (i + j) = text[j]?)
    (hnul : m.read (i + text.length) = some 0x00) (hp : text.all isPrintable = true) : LineAt m i text := by
  induction text generalizing i with
  | nil => exact hnul
  | cons b bs ih =>
    obtain ⟨hb, hbs⟩ : isPrintable b = true ∧ bs.all isPrintable = true := by simpa using hp
    refine ⟨by simpa using hreads 0 (by simp), isPrintable_ne_nul hb, ih (fun j hj => ?_) ?_ hbs⟩
    · rw [Nat.add_assoc, Nat.add_comm 1 j]
      simpa using hreads (j + 1) (by simpa using hj)
    · rw [Nat.add_assoc, Nat.add_comm 1]
      exact hnul

/-- An assembled line that is not empty becomes the pending line. -/
theorem Assembled.terminate {s : State} {text : List Byte} (h : Assembled s text) {e : Byte}
    (he : isTerminator e = true) (hne : text ≠ []) :
    (s.receive e).ready = true ∧ (s.receive e).fetch = some text := by
  have hpos : text.length ≠ 0 := by simpa using hne
  have hcap : text.length < s.cfg.rxCap := by
    have := h.fits
    omega
  obtain ⟨hmem, -, hready⟩ := terminatorEndsTheLine s e h.ready (h.cur ▸ hcap) ((isTerminator_iff e).1 he)
  rw [h.cur] at hmem hready
  refine ⟨by simpa [hpos] using hready, State.fetch_of_lineAt _ _ (lineAt_of_reads (fun j hj => ?_) ?_ h.printable)⟩
  · rw [Nat.zero_add]
    exact (hmem j).trans ((if_neg (by omega)).trans (h.reads j hj))
  · rw [Nat.zero_add]
    exact (hmem _).trans (if_pos rfl)

/-- An empty line is none (R116). -/
theorem Assembled.terminate_nil {s : State} (h : Assembled s []) {e : Byte} (he : isTerminator e = true) :
    (s.receive e).ready = false := by
  simpa [State.receive_of_empty h.ready he h.cur] using h.ready

/-- Settles O14: the bytes before the terminator are assembled, filtered and cut, and the terminator ends them. -/
theorem wireBytesBecomeThePendingLine : Obligations.WireBytesBecomeThePendingLine := by
  intro s w e hr hc hw he
  have h : Assembled (s.deliver w) ((w.filter isPrintable).take (s.cfg.rxCap - 1)) := by
    have hnil : Assembled s (([] : List Byte).take (s.cfg.rxCap - 1)) := by simpa using Assembled.nil hr hc
    simpa using hnil.deliver hw
  have hcap : (s.deliver w).cur < (s.deliver w).cfg.rxCap := by
    have hfits := h.fits
    have htwo := (s.deliver w).cfg.capOk
    rw [h.cur]
    omega
  obtain ⟨-, hzero, -⟩ := terminatorEndsTheLine _ e h.ready hcap ((isTerminator_iff e).1 he)
  rw [State.deliver_append, State.deliver_singleton]
  exact ⟨hzero, fun hnil => (hnil ▸ h).terminate_nil he, fun hne => h.terminate he hne⟩

/-! A request on the wire. -/

/-- The boundary takes the script's next bytes. -/
theorem State.preempt_of_arrivals {s : State} {bs : List Byte} {rest : List (List Byte)}
    (h : s.env.arrivals = bs :: rest) : s.preempt = (s.setEnv { s.env with arrivals := rest }).deliver bs := by
  simp [State.preempt, State.drawArrivals, h]

/-- Settles O16: the line comes through the receiver whole (O14), is fetched, and decodes to the command without a draw
(O17). -/
theorem requestOnTheWireIsExecuted : Obligations.RequestOnTheWireIsExecuted := by
  intro s t i e rest hm hr hc hwf hfit he harr hexec
  obtain ⟨hne, hp⟩ := encode_isLine hwf
  have hpre := State.preempt_of_arrivals harr
  have hterm : (encode i).all (fun b => !isTerminator b) = true := List.all_eq_true.2 fun b hb => by
    simp [not_isTerminator_of_isPrintable (List.all_eq_true.1 hp b hb)]
  have hline : ((encode i).filter isPrintable).take (s.cfg.rxCap - 1) = encode i := by
    rw [List.filter_eq_self.2 (List.all_eq_true.1 hp), List.take_of_length_le hfit]
  obtain ⟨-, -, hpending⟩ := wireBytesBecomeThePendingLine (s.setEnv { s.env with arrivals := rest }) (encode i) e
    hr hc hterm he
  rw [State.setEnv_cfg, hline] at hpending
  obtain ⟨hready, hfetch⟩ := hpending hne
  have hdraw := lineDraw_of_not_needsDraw (s := s.preempt) (needsDraw_encode hwf)
  have hcap : s.cursorBad = false := State.cursorBad_of_lt (by have := s.cfg.capOk; omega)
  refine step_of_line hm hcap (hpre ▸ hready) (hpre ▸ hfetch) (i := i) ?_ ?_
  · rw [hdraw]
    exact encodeThenDecodeIsIdentity 0 i hwf
  · rw [hdraw, hpre]
    exact hexec

end Sys2Proof.Machine
end

section
/-!
PROOFS. Two runs that differ only in what ENV delivers on the serial line (40_dispatch.md R150, 20_memory.md R87): while
a line is pending every operation takes twin states to twin states.
-/

namespace Sys2Proof.Machine

/-- The state without its `Rx` events and without what ENV will deliver. -/
def State.quiet (s : State) : State :=
  { s with trace := s.mainTrace, env := { s.env with arrivals := [], endless := false, boundary := 0 } }

theorem State.quiet_otherSerial (s : State) (e : Env) : (s.otherSerial e).quiet = s.quiet := rfl

/-- States that agree without their serial input are twins. -/
theorem serialTwin_of_quiet_eq {t u : State} (h : t.quiet = u.quiet) : SerialTwin t u := by
  refine ⟨(congrArg State.trace h).symm, ?_⟩
  cases t with
  | mk cfg pos homed buf cur ready stepOut dirOut mphase hphase loop susp trace env =>
  cases u with
  | mk cfg' pos' homed' buf' cur' ready' stepOut' dirOut' mphase' hphase' loop' susp' trace' env' =>
  cases env
  cases env'
  simp_all [State.quiet, State.setEnv]

/-- Both states hold a pending line, and they agree but for the serial line. -/
structure SerialTwins (s u : State) : Prop where
  ready : s.ready = true
  quiet : s.quiet = u.quiet

namespace SerialTwins

variable {s u : State}

/-! What the twins share. -/

theorem cfg (h : SerialTwins s u) : s.cfg = u.cfg := congrArg (fun t => t.cfg) h.quiet
theorem pos (h : SerialTwins s u) : s.pos = u.pos := congrArg (fun t => t.pos) h.quiet
theorem homed (h : SerialTwins s u) : s.homed = u.homed := congrArg (fun t => t.homed) h.quiet
theorem buf (h : SerialTwins s u) : s.buf = u.buf := congrArg (fun t => t.buf) h.quiet
theorem mphase (h : SerialTwins s u) : s.mphase = u.mphase := congrArg (fun t => t.mphase) h.quiet
theorem loop (h : SerialTwins s u) : s.loop = u.loop := congrArg (fun t => t.loop) h.quiet
theorem susp (h : SerialTwins s u) : s.susp = u.susp := congrArg (fun t => t.susp) h.quiet
theorem pins (h : SerialTwins s u) : s.env.pins = u.env.pins := congrArg (fun t => t.env.pins) h.quiet
theorem ready_right (h : SerialTwins s u) : u.ready = true := (congrArg State.ready h.quiet).symm.trans h.ready

/-! The register writes. -/

theorem setPos (h : SerialTwins s u) (a : Axis) (v : Int) : SerialTwins (s.setPos a v) (u.setPos a v) :=
  ⟨h.ready, congrArg (fun t => t.setPos a v) h.quiet⟩

theorem setHomed (h : SerialTwins s u) (a : Axis) (v : Bit) : SerialTwins (s.setHomed a v) (u.setHomed a v) :=
  ⟨h.ready, congrArg (fun t => t.setHomed a v) h.quiet⟩

theorem setHphase (h : SerialTwins s u) (a : Axis) (v : HPhase) : SerialTwins (s.setHphase a v) (u.setHphase a v) :=
  ⟨h.ready, congrArg (fun t => t.setHphase a v) h.quiet⟩

theorem setSusp (h : SerialTwins s u) (p : Option Suspended) : SerialTwins (s.setSusp p) (u.setSusp p) :=
  ⟨h.ready, congrArg (fun t => t.setSusp p) h.quiet⟩

theorem setMphase (h : SerialTwins s u) (v : MPhase) : SerialTwins (s.setMphase v) (u.setMphase v) :=
  ⟨h.ready, congrArg (fun t => t.setMphase v) h.quiet⟩

theorem setLatch (h : SerialTwins s u) (p : OutPin) (v : Bit) : SerialTwins (s.setLatch p v) (u.setLatch p v) := by
  cases p with
  | step a => exact ⟨h.ready, congrArg (fun t => t.setLatch (.step a) v) h.quiet⟩
  | dir a => exact ⟨h.ready, congrArg (fun t => t.setLatch (.dir a) v) h.quiet⟩

/-- The loop registers are updated from what they hold. -/
theorem mapLoop (h : SerialTwins s u) (f : LoopRegs → LoopRegs) :
    SerialTwins (s.setLoop (f s.loop)) (u.setLoop (f u.loop)) :=
  ⟨h.ready, congrArg (fun t => t.setLoop (f t.loop)) h.quiet⟩

/-! Events, boundaries and draws. -/

theorem emit (h : SerialTwins s u) (e : Event) : SerialTwins (s.emit e) (u.emit e) := by
  refine ⟨h.ready, ?_⟩
  have hmain : (s.emit e).mainTrace = (u.emit e).mainTrace := by
    rw [State.mainTrace_emit, State.mainTrace_emit, show s.mainTrace = u.mainTrace from congrArg State.trace h.quiet]
  exact (congrArg (fun t : State => { t with trace := (s.emit e).mainTrace }) h.quiet).trans (by rw [hmain])

/-- A boundary adds `Rx` events and uses up serial input, and nothing else. -/
theorem quiet_preempt {s : State} (hr : s.ready = true) : s.preempt.quiet = s.quiet := by
  have hmain := s.mainTrace_preempt
  rw [State.preempt, State.deliver, if_pos (s.drawArrivals_ready.trans hr)] at hmain ⊢
  rw [State.quiet, hmain]
  unfold State.drawArrivals
  split <;> rfl

theorem preempt (h : SerialTwins s u) : SerialTwins s.preempt u.preempt :=
  ⟨(State.preempt_ready h.ready).trans h.ready,
    (quiet_preempt h.ready).trans (h.quiet.trans (quiet_preempt h.ready_right).symm)⟩

theorem quiet_drawPin (s : State) : s.quiet.drawPin = (s.drawPin.1, s.drawPin.2.quiet) := by
  unfold State.drawPin
  cases hp : s.env.pins <;> simp [State.quiet, hp] <;> rfl

theorem quiet_drawI32 (s : State) : s.quiet.drawI32 = (s.drawI32.1, s.drawI32.2.quiet) := by
  unfold State.drawI32
  cases hp : s.env.ints <;> simp [State.quiet, hp] <;> rfl

theorem quiet_drawBound (s : State) : s.quiet.drawBound = (s.drawBound.1, s.drawBound.2.quiet) := by
  unfold State.drawBound
  cases hp : s.env.bounds <;> simp [State.quiet, hp] <;> rfl

theorem drawPin (h : SerialTwins s u) : s.drawPin.1 = u.drawPin.1 ∧ SerialTwins s.drawPin.2 u.drawPin.2 := by
  have heq := congrArg State.drawPin h.quiet
  rw [quiet_drawPin, quiet_drawPin] at heq
  obtain ⟨hvalue, hrest⟩ := Prod.mk.inj heq
  exact ⟨hvalue, s.drawPin_ready.trans h.ready, hrest⟩

theorem drawI32 (h : SerialTwins s u) : s.drawI32.1 = u.drawI32.1 ∧ SerialTwins s.drawI32.2 u.drawI32.2 := by
  have heq := congrArg State.drawI32 h.quiet
  rw [quiet_drawI32, quiet_drawI32] at heq
  obtain ⟨hvalue, hrest⟩ := Prod.mk.inj heq
  exact ⟨hvalue, s.drawI32_ready.trans h.ready, hrest⟩

theorem drawBound (h : SerialTwins s u) :
    s.drawBound.1 = u.drawBound.1 ∧ SerialTwins s.drawBound.2 u.drawBound.2 := by
  have heq := congrArg State.drawBound h.quiet
  rw [quiet_drawBound, quiet_drawBound] at heq
  obtain ⟨hvalue, hrest⟩ := Prod.mk.inj heq
  exact ⟨hvalue, s.drawBound_ready.trans h.ready, hrest⟩

/-! The ports. -/

theorem pinSet (h : SerialTwins s u) (p : OutPin) : SerialTwins (s.pinSet p) (u.pinSet p) :=
  (h.preempt.emit _).setLatch p true

theorem pinClear (h : SerialTwins s u) (p : OutPin) : SerialTwins (s.pinClear p) (u.pinClear p) :=
  (h.preempt.emit _).setLatch p false

theorem pinWrite (h : SerialTwins s u) (p : OutPin) (v : Bit) : SerialTwins (s.pinWrite p v) (u.pinWrite p v) := by
  cases v
  · exact h.pinClear p
  · exact h.pinSet p

theorem pinRead (h : SerialTwins s u) (p : InPin) :
    (s.pinRead p).1 = (u.pinRead p).1 ∧ SerialTwins (s.pinRead p).2 (u.pinRead p).2 := by
  obtain ⟨hbit, hrest⟩ := h.preempt.drawPin
  refine ⟨hbit, ?_⟩
  unfold State.pinRead
  rw [← hbit]
  exact hrest.emit _

theorem delay (h : SerialTwins s u) (d : Duration) : SerialTwins (s.delay d) (u.delay d) := h.preempt.emit _

theorem txBytes (h : SerialTwins s u) (bs : List Byte) : SerialTwins (s.txBytes bs) (u.txBytes bs) := by
  induction bs generalizing s u with
  | nil => exact h
  | cons b bs ih => exact ih (h.preempt.emit (.tx b))

theorem txLine (h : SerialTwins s u) (text : List Byte) : SerialTwins (s.txLine text) (u.txLine text) := by
  unfold State.txLine
  rw [← h.cfg]
  exact h.txBytes _

theorem pulse (h : SerialTwins s u) (a : Axis) : SerialTwins (s.pulse a) (u.pulse a) :=
  (((h.pinSet _).delay _).pinClear _).delay _

theorem setDir (h : SerialTwins s u) (a : Axis) (d : Dir) : SerialTwins (s.setDir a d) (u.setDir a d) := by
  unfold State.setDir
  rw [← h.cfg]
  exact (h.pinWrite _ _).delay _

/-! Motion. -/

theorem completeStep (h : SerialTwins s u) (a : Axis) (t : Int) :
    SerialTwins (completeStep a t s) (completeStep a t u) :=
  ((h.pulse a).setPos a t).mapLoop fun r => { r with done := r.done + 1 }

theorem moveLoop (h : SerialTwins s u) (a : Axis) (n : Nat) : SerialTwins (moveLoop a n s) (moveLoop a n u) := by
  induction n generalizing s u with
  | zero => exact h
  | succ n ih =>
    obtain ⟨hbit, hread⟩ := h.pinRead (limitPin a s.loop.d)
    unfold Machine.moveLoop
    dsimp only
    rw [← h.loop, ← hbit, ← hread.cfg, ← hread.pos, ← hread.loop]
    split
    · exact hread
    · split
      · exact ih (hread.completeStep a _)
      · exact hread

theorem stepBound (h : SerialTwins s u) (n : Int) :
    (stepBound n s).1 = (stepBound n u).1 ∧ SerialTwins (stepBound n s).2 (stepBound n u).2 := by
  unfold Machine.stepBound
  split
  · exact h.drawBound
  · exact ⟨rfl, h⟩

theorem moveStart (h : SerialTwins s u) (a : Axis) (n : Int) : SerialTwins (moveStart a n s) (moveStart a n u) := by
  obtain ⟨hbound, hrest⟩ := ((h.mapLoop fun r => { r with d := dirOf n }).setDir a (dirOf n)).stepBound n
  unfold Machine.moveStart
  dsimp only
  rw [← hbound]
  exact hrest.mapLoop fun r => { r with bound := _, done := 0 }

theorem moveAxis (h : SerialTwins s u) (a : Axis) (n : Int) :
    (moveAxis a n s).1 = (moveAxis a n u).1 ∧ SerialTwins (moveAxis a n s).2 (moveAxis a n u).2 := by
  unfold Machine.moveAxis
  split
  · exact ⟨rfl, h⟩
  · have hstart := h.moveStart a n
    have hfin := hstart.moveLoop a (Machine.moveStart a n s).loop.bound
    dsimp only
    rw [← hstart.loop, ← hfin.loop]
    exact ⟨rfl, hfin⟩

theorem relativeMove (h : SerialTwins s u) (a : Axis) (n : Int) :
    SerialTwins (relativeMove a n s) (relativeMove a n u) := by
  obtain ⟨hcount, hmove⟩ := h.moveAxis a n
  unfold Machine.relativeMove
  dsimp only
  rw [← hcount]
  exact hmove.txLine _

theorem absoluteDelta (h : SerialTwins s u) (a : Axis) (t : Int) :
    (absoluteDelta a t s).1 = (absoluteDelta a t u).1 ∧
      SerialTwins (absoluteDelta a t s).2 (absoluteDelta a t u).2 := by
  obtain ⟨hdraw, hrest⟩ := h.drawI32
  unfold Machine.absoluteDelta
  rw [← h.pos, ← hdraw]
  split
  · exact ⟨rfl, h⟩
  · exact ⟨rfl, hrest⟩

theorem absoluteMove (h : SerialTwins s u) (a : Axis) (t : Int) :
    SerialTwins (absoluteMove a t s) (absoluteMove a t u) := by
  obtain ⟨hdelta, hrest⟩ := h.absoluteDelta a t
  obtain ⟨-, hmove⟩ := hrest.moveAxis a (Machine.absoluteDelta a t s).1
  unfold Machine.absoluteMove
  dsimp only
  rw [← hdelta, ← hmove.pos]
  exact hmove.txLine _

theorem center (h : SerialTwins s u) : ∃ t w, execCenter s = .next t ∧ execCenter u = .next w ∧ SerialTwins t w := by
  obtain ⟨-, hpan⟩ := h.moveAxis .pan (-s.pos.get .pan)
  obtain ⟨-, htilt⟩ := hpan.moveAxis .tilt (-(Machine.moveAxis .pan (-s.pos.get .pan) s).2.pos.get .tilt)
  refine ⟨_, _, rfl, rfl, ?_⟩
  rw [← h.pos, ← hpan.pos]
  exact htilt.txLine _

/-! Homing. -/

theorem seekRead (h : SerialTwins s u) (a : Axis) :
    (seekRead a s).1 = (seekRead a u).1 ∧ SerialTwins (seekRead a s).2 (seekRead a u).2 := by
  obtain ⟨hbit, hread⟩ := h.pinRead (.neg a)
  unfold Machine.seekRead
  dsimp only
  rw [← hbit, ← hread.cfg, ← hread.loop]
  exact ⟨rfl, hread⟩

theorem seekPulse (h : SerialTwins s u) (a : Axis) : SerialTwins (seekPulse a s) (seekPulse a u) :=
  (h.pulse a).mapLoop fun r => { r with cnt := r.cnt + 1 }

theorem seekLoop (h : SerialTwins s u) (a : Axis) (n : Nat) :
    (seekLoop a n s).1 = (seekLoop a n u).1 ∧ SerialTwins (seekLoop a n s).2 (seekLoop a n u).2 := by
  induction n generalizing s u with
  | zero =>
    obtain ⟨hverdict, hread⟩ := h.seekRead a
    unfold Machine.seekLoop
    rw [← hverdict]
    exact ⟨rfl, hread⟩
  | succ n ih =>
    obtain ⟨hverdict, hread⟩ := h.seekRead a
    unfold Machine.seekLoop
    rw [← hverdict]
    split
    · exact ⟨rfl, hread⟩
    · exact ⟨rfl, hread⟩
    · exact ih (hread.seekPulse a)

theorem seekPhase (h : SerialTwins s u) (a : Axis) :
    (seekPhase a s).1 = (seekPhase a u).1 ∧ SerialTwins (seekPhase a s).2 (seekPhase a u).2 := by
  have hentry := (((h.setHomed a false).setHphase a .seekingLimit).setDir a .minus).mapLoop
    fun r => { r with d := .minus, cnt := 0 }
  unfold Machine.seekPhase
  dsimp only
  rw [← hentry.cfg]
  exact hentry.seekLoop a _

theorem backOffLoop (h : SerialTwins s u) (a : Axis) (n : Nat) :
    SerialTwins (backOffLoop a n s) (backOffLoop a n u) := by
  induction n generalizing s u with
  | zero => exact h
  | succ n ih => exact ih ((h.mapLoop fun r => { r with k := r.k + 1 }).pulse a)

theorem backOffPhase (h : SerialTwins s u) (a : Axis) : SerialTwins (backOffPhase a s) (backOffPhase a u) := by
  have hentry := ((h.setHphase a .backingOff).setDir a .plus).mapLoop fun r => { r with d := .plus, k := 0 }
  unfold Machine.backOffPhase
  dsimp only
  rw [← hentry.cfg]
  exact hentry.backOffLoop a _

theorem reapproachStart (h : SerialTwins s u) (a : Axis) :
    SerialTwins (reapproachStart a s) (reapproachStart a u) :=
  ((h.setHphase a .reapproachingSlow).setDir a .minus).mapLoop fun r => { r with d := .minus }

theorem reapproachLoop (h : SerialTwins s u) (a : Axis) (n : Nat) :
    (reapproachLoop a n s).1 = (reapproachLoop a n u).1 ∧
      SerialTwins (reapproachLoop a n s).2 (reapproachLoop a n u).2 := by
  induction n generalizing s u with
  | zero => exact ⟨rfl, h⟩
  | succ n ih =>
    obtain ⟨hbit, hread⟩ := h.pinRead (.neg a)
    unfold Machine.reapproachLoop
    dsimp only
    rw [← hbit]
    split
    · exact ⟨rfl, hread⟩
    · exact ih ((hread.pulse a).delay .tSlow)

theorem homeFinish (h : SerialTwins s u) (a : Axis) : SerialTwins (homeFinish a s) (homeFinish a u) := by
  unfold Machine.homeFinish
  dsimp only
  rw [← (h.setHphase a .homed).cfg]
  exact (((h.setHphase a .homed).setPos a _).setHomed a true).setHphase a .idle

theorem homeFail (h : SerialTwins s u) (a : Axis) : SerialTwins (homeFail a s) (homeFail a u) :=
  (h.setHphase a .failed).setHphase a .idle

theorem reapproach (h : SerialTwins s u) (a : Axis) :
    (reapproach a s).1 = (reapproach a u).1 ∧ SerialTwins (reapproach a s).2 (reapproach a u).2 := by
  obtain ⟨hhit, hloop⟩ := h.reapproachLoop a (max 1 s.env.pins.length)
  unfold Machine.reapproach
  dsimp only
  rw [← h.pins, ← hhit]
  split
  · exact ⟨rfl, hloop.homeFinish a⟩
  · exact ⟨rfl, hloop⟩

theorem home (h : SerialTwins s u) (a : Axis) :
    (home a s).1 = (home a u).1 ∧ SerialTwins (home a s).2 (home a u).2 := by
  obtain ⟨hfound, hseek⟩ := h.seekPhase a
  unfold Machine.home
  dsimp only
  rw [← hfound]
  split
  · exact ((hseek.backOffPhase a).reapproachStart a).reapproach a
  · exact ⟨rfl, hseek.homeFail a⟩

theorem reportHome (h : SerialTwins s u) (a : Axis) (ok : Bool) :
    SerialTwins (reportHome a ok s) (reportHome a ok u) := by
  cases ok
  · exact h.txLine _
  · exact h.txLine _

theorem homeAllEnd (h : SerialTwins s u) (panOk tiltOk : Bool) :
    SerialTwins (homeAllEnd panOk tiltOk s) (homeAllEnd panOk tiltOk u) := by
  have hreport := h.reportHome .tilt tiltOk
  unfold Machine.homeAllEnd
  dsimp only
  rw [← hreport.cfg]
  split
  · exact hreport.txLine _
  · exact hreport

/-- Twins go on alike after `home`: its status is one of both. -/
theorem afterHome {r q : HomeStatus × State} (hstatus : r.1 = q.1) (h : SerialTwins r.2 q.2) (p : Suspended)
    {next : Bool → State → State} (hnext : ∀ ok {s u}, SerialTwins s u → SerialTwins (next ok s) (next ok u)) :
    SerialTwins (afterHome p next r) (afterHome p next q) := by
  unfold Machine.afterHome
  rw [← hstatus]
  split
  · exact hnext true h
  · exact hnext false h
  · exact h.setSusp _

/-- A homing command from its announcement on. -/
theorem announcedHome (h : SerialTwins s u) (p : Suspended) {next : Bool → State → State}
    (hnext : ∀ ok {s u}, SerialTwins s u → SerialTwins (next ok s) (next ok u)) :
    SerialTwins (Machine.afterHome p next (Machine.home p.axis (s.txLine (homingLine p.axis))))
      (Machine.afterHome p next (Machine.home p.axis (u.txLine (homingLine p.axis)))) :=
  have hhome := (h.txLine (homingLine p.axis)).home p.axis
  afterHome hhome.1 hhome.2 p hnext

theorem homeAllTilt (h : SerialTwins s u) (panOk : Bool) :
    SerialTwins (homeAllTilt panOk s) (homeAllTilt panOk u) :=
  h.announcedHome (.homeAllTilt panOk) fun ok _ _ hr => hr.homeAllEnd panOk ok

theorem homeAllAfterPan (h : SerialTwins s u) (panOk : Bool) :
    SerialTwins (homeAllAfterPan panOk s) (homeAllAfterPan panOk u) := by
  have hreport := h.reportHome .pan panOk
  unfold Machine.homeAllAfterPan
  dsimp only
  rw [← hreport.cfg]
  split
  · exact hreport
  · exact hreport.homeAllTilt panOk

theorem rest (h : SerialTwins s u) (p : Suspended) (ok : Bool) : SerialTwins (p.rest ok s) (p.rest ok u) := by
  cases p with
  | homePan => exact h.reportHome .pan ok
  | homeTilt => exact h.reportHome .tilt ok
  | homeAllPan => exact h.homeAllAfterPan ok
  | homeAllTilt panOk => exact h.homeAllEnd panOk ok

theorem continueCommand (h : SerialTwins s u) (p : Suspended) :
    SerialTwins (continueCommand p s) (continueCommand p u) :=
  have hslice := (h.setSusp none).reapproach p.axis
  afterHome hslice.1 hslice.2 p fun ok _ _ hr => hr.rest p ok

/-! Commands. -/

theorem getStatus (h : SerialTwins s u) :
    ∃ t w, execGetStatus s = .next t ∧ execGetStatus u = .next w ∧ SerialTwins t w := by
  obtain ⟨hpn, h1⟩ := h.pinRead (.neg .pan)
  obtain ⟨hpp, h2⟩ := h1.pinRead (.pos .pan)
  obtain ⟨htn, h3⟩ := h2.pinRead (.neg .tilt)
  obtain ⟨htp, h4⟩ := h3.pinRead (.pos .tilt)
  refine ⟨_, _, rfl, rfl, ?_⟩
  rw [← hpn, ← hpp, ← htn, ← htp, ← h4.homed]
  exact h4.txLine _

theorem exec (h : SerialTwins s u) (i : Instr) : ∃ t w, exec i s = .next t ∧ exec i u = .next w ∧ SerialTwins t w := by
  cases i with
  | panRel n => exact ⟨_, _, rfl, rfl, h.relativeMove .pan n⟩
  | tiltRel n => exact ⟨_, _, rfl, rfl, h.relativeMove .tilt n⟩
  | panAbs t => exact ⟨_, _, rfl, rfl, h.absoluteMove .pan t⟩
  | tiltAbs t => exact ⟨_, _, rfl, rfl, h.absoluteMove .tilt t⟩
  | homePan => exact ⟨_, _, rfl, rfl, h.announcedHome .homePan fun ok _ _ hr => hr.reportHome .pan ok⟩
  | homeTilt => exact ⟨_, _, rfl, rfl, h.announcedHome .homeTilt fun ok _ _ hr => hr.reportHome .tilt ok⟩
  | homeAll => exact ⟨_, _, rfl, rfl, h.announcedHome .homeAllPan fun ok _ _ hr => hr.homeAllAfterPan ok⟩
  | center => exact h.center
  | getPos =>
    refine ⟨_, _, exec_getPos_eq_txLine s, exec_getPos_eq_txLine u, ?_⟩
    rw [← h.pos]
    exact h.txLine _
  | getStatus => exact h.getStatus
  | ping => exact ⟨_, _, rfl, rfl, h.txLine _⟩
  | unknown text => exact ⟨_, _, rfl, rfl, h.txLine _⟩

/-! The Dispatch Loop. The release ends the pending line, so only `quiet` is said of its states. -/

theorem quiet_release (h : SerialTwins s u) : s.release.quiet = u.release.quiet :=
  congrArg (fun t => (t.setReady false).setMphase .poll) h.preempt.quiet

theorem quiet_endCommand (h : SerialTwins s u) : s.endCommand.quiet = u.endCommand.quiet := by
  unfold State.endCommand
  rw [← h.susp]
  split
  · exact h.quiet_release
  · exact h.quiet

theorem quiet_execStep (h : SerialTwins s u) : (execStep s).quiet = (execStep u).quiet := by
  unfold Machine.execStep
  rw [← h.susp]
  split
  · exact (h.continueCommand _).quiet_endCommand
  · exact h.quiet_release

theorem lineDraw (h : SerialTwins s u) (line : List Byte) :
    (lineDraw line s).1 = (lineDraw line u).1 ∧ SerialTwins (lineDraw line s).2 (lineDraw line u).2 := by
  unfold Machine.lineDraw
  split
  · exact h.drawI32
  · exact ⟨rfl, h⟩

theorem fetch (h : SerialTwins s u) : s.fetch = u.fetch := by
  rw [State.fetch, State.fetch, h.buf]

/-- A step of one twin that answers next is a step of the other. -/
theorem step (h : SerialTwins s u) {t : State} (hs : step s = .next t) :
    ∃ w, step u = .next w ∧ t.quiet = w.quiet := by
  have hbad := State.cursorBad_of_ready h.ready_right
  cases step_cases hs with
  | booted hm ht =>
    exact ⟨_, step_boot (h.mphase ▸ hm) hbad, ht ▸ ((h.txLine _).setMphase .poll).quiet⟩
  | polled _ hr _ =>
    rw [State.preempt_ready h.ready, h.ready] at hr
    cases hr
  | continued hm ht => exact ⟨_, step_exec (h.mphase ▸ hm) hbad, ht ▸ h.quiet_execStep⟩
  | ran hm _ line i v hf hd he ht =>
    obtain ⟨hdraw, hrest⟩ := h.preempt.lineDraw line
    obtain ⟨v', w, hv', hw, hvw⟩ := ((hrest.setMphase .exec).setSusp none).exec i
    obtain rfl : v = v' := Host.Outcome.next.inj (he.symm.trans hv')
    have hstep := step_of_line (h.mphase ▸ hm) hbad h.preempt.ready_right (h.preempt.fetch ▸ hf) (hdraw ▸ hd) hw
    exact ⟨_, hstep, ht ▸ hvw.quiet_endCommand⟩

end SerialTwins

/-- Settles O54: a state and the same with another serial input are twins, and commands and steps keep twins. -/
theorem serialInputCannotAlterACommand : Obligations.SerialInputCannotAlterACommand := by
  refine ⟨fun i s t e hr he => ?_, fun s t e hr hs => ?_⟩
  · have htwins : SerialTwins s (s.otherSerial e) := ⟨hr, s.quiet_otherSerial e⟩
    obtain ⟨t', u, ht', hu, htu⟩ := htwins.exec i
    obtain rfl : t = t' := Host.Outcome.next.inj (he.symm.trans ht')
    exact ⟨u, hu, serialTwin_of_quiet_eq htu.quiet⟩
  · have htwins : SerialTwins s (s.otherSerial e) := ⟨hr, s.quiet_otherSerial e⟩
    obtain ⟨u, hu, htu⟩ := htwins.step hs
    exact ⟨u, hu, serialTwin_of_quiet_eq htu⟩

end Sys2Proof.Machine
end

section
/-!
PROOFS. The run invariant (10_state.md R25, R35, R36, R41; 41_motion.md R170): its share of the mailbox, which RX and
the release keep, and its share of the axes, which commands keep.
-/

namespace Sys2Proof.Machine

/-! The mailbox. -/

/-- The mailbox's share of `RunInv` (20_memory.md R61; 10_state.md R35). -/
structure MailboxInv (s : State) : Prop where
  whole : s.buf.whole s.cfg.rxCap = true
  cursor : s.cur ≤ s.cfg.rxCap - 1
  pending : s.ready = true → s.cur = 0 ∧ PendingLine s
  assembling : s.ready = false → ∀ i, i < s.cur → ∃ b, s.memRead i = some b ∧ isPrintable b = true

theorem RunInv.mailbox {s : State} (h : RunInv s) : MailboxInv s := ⟨h.whole, h.cursor, h.pending, h.assembling⟩

/-- The cursor stands inside the buffer, as `RX_CAP` is at least 2 (R9). -/
theorem MailboxInv.cur_lt {s : State} (h : MailboxInv s) : s.cur < s.cfg.rxCap := by
  have hcur := h.cursor
  have hcap := s.cfg.capOk
  omega

theorem MailboxInv.of_eq {s t : State} (h : MailboxInv s) (hcfg : t.cfg = s.cfg) (hbuf : t.buf = s.buf)
    (hcur : t.cur = s.cur) (hready : t.ready = s.ready) : MailboxInv t := by
  obtain ⟨hwhole, hcursor, hpending, hassembling⟩ := h
  constructor
  · rwa [hcfg, hbuf]
  · rwa [hcfg, hcur]
  · simpa only [hready, hcur, PendingLine, State.memRead, hbuf, hcfg] using hpending
  · simpa only [hready, hcur, State.memRead, hbuf] using hassembling

/-- A received byte keeps the mailbox's invariant, by the branches of R69 to R73. -/
theorem MailboxInv.receive {s : State} (h : MailboxInv s) (b : Byte) : MailboxInv (s.receive b) := by
  have hcap := h.cur_lt
  cases hr : s.ready with
  | true =>
    rw [State.receive_of_ready b hr]
    exact h.of_eq rfl rfl rfl rfl
  | false =>
    by_cases hterm : isTerminator b = true
    · by_cases hc : s.cur = 0
      · rw [State.receive_of_empty hr hterm hc]
        have hwhole : (s.emit (.rx b)).buf.whole (s.emit (.rx b)).cfg.rxCap = true := h.whole
        exact ⟨by simpa using (s.emit (.rx b)).memWrite_whole 0 0x00 hwhole, by simp [hc], by simp [hr], by simp [hc]⟩
      · obtain ⟨hmem, hzero, hready⟩ := terminatorEndsTheLine s b hr hcap ((isTerminator_iff b).1 hterm)
        refine ⟨?_, by simp [hzero], fun _ => ⟨hzero, s.cur, ?_, ?_, ?_, fun i hi => ?_⟩, by simp [hzero]⟩
        · rw [State.receive_of_terminator hr hterm hc]
          simpa using (s.emit (.rx b)).memWrite_whole s.cur 0x00 h.whole
        · omega
        · simpa using h.cursor
        · simp [hmem]
        · rw [hmem, if_neg (Nat.ne_of_lt hi)]
          exact h.assembling hr i hi
    · by_cases hroom : isPrintable b = true ∧ s.cur < s.cfg.rxCap - 1
      · obtain ⟨hprint, hlt⟩ := hroom
        rw [State.receive_of_stored hr hprint hlt]
        refine ⟨by simpa using (s.emit (.rx b)).memWrite_whole s.cur b h.whole, ?_, ?_, fun _ i hi => ?_⟩
        · simpa using hlt
        · simp [hr]
        · have hread := State.memRead_memWrite (s.emit (.rx b)) i b (i := s.cur) hcap
          by_cases hend : i = s.cur
          · exact ⟨b, hread.trans (if_pos hend), hprint⟩
          · obtain ⟨c, hc, hcp⟩ := h.assembling hr i (by simp at hi; omega)
            exact ⟨c, hread.trans ((if_neg hend).trans hc), hcp⟩
      · rw [State.receive_of_dropped hr (by simpa using hterm) hroom]
        exact h.of_eq rfl rfl rfl rfl

theorem MailboxInv.preempt {s : State} (h : MailboxInv s) : MailboxInv s.preempt :=
  State.deliver_induction MailboxInv _ (h.of_eq (by simp) (by simp) (by simp) (by simp)) fun _ b ht => ht.receive b

theorem MailboxInv.txBytes {s : State} (h : MailboxInv s) (bs : List Byte) : MailboxInv (s.txBytes bs) := by
  induction bs generalizing s with
  | nil => exact h
  | cons b bs ih =>
    exact ih (s := s.preempt.emit (.tx b)) (h.preempt.of_eq rfl rfl rfl rfl)

theorem MailboxInv.setMphase {s : State} (h : MailboxInv s) (m : MPhase) : MailboxInv (s.setMphase m) :=
  h.of_eq rfl rfl rfl rfl

/-- The release of a pending line leaves an empty line under assembly. -/
theorem MailboxInv.release {s : State} (h : MailboxInv s) (hr : s.ready = true) : MailboxInv s.release := by
  obtain ⟨hzero, -⟩ := h.pending hr
  have hcur : s.release.cur = 0 := (State.release_cur hr).trans hzero
  refine ⟨?_, by simp [hcur], by simp, by simp [hcur]⟩
  rw [State.release_buf hr, State.release_cfg]
  exact h.whole

theorem MailboxInv.commandFrame {s t : State} (h : MailboxInv s) (hr : s.ready = true) (hf : CommandFrame s t) :
    MailboxInv t :=
  h.of_eq hf.cfg (hf.buf hr) (hf.cur hr) (hf.ready hr)

/-! The axes. -/

/-- The axes' share of `RunInv` (R25, R36; 41_motion.md R170). -/
structure AxesInv (s : State) : Prop where
  soft : InSoftRange s
  stepLow : ∀ a, s.stepOut.get a = false
  suspended : ∀ p, s.susp = some p →
    s.hphase.get p.axis = .reapproachingSlow ∧ s.hphase.get p.axis.other = .idle ∧ s.homed.get p.axis = false
  idle : s.susp = none → s.hphase.get .pan = .idle ∧ s.hphase.get .tilt = .idle

/-- The axes between the parts of a command: MAIN is in no suspended command, and no homing is under way. -/
structure AxesIdle (s : State) : Prop where
  soft : InSoftRange s
  stepLow : ∀ a, s.stepOut.get a = false
  susp : s.susp = none
  idle : ∀ a, s.hphase.get a = .idle

theorem RunInv.axes {s : State} (h : RunInv s) : AxesInv s := ⟨h.soft, h.stepLow, h.suspended, h.idle⟩

theorem AxesInv.axesIdle {s : State} (h : AxesInv s) (hs : s.susp = none) : AxesIdle s := by
  obtain ⟨hpan, htilt⟩ := h.idle hs
  refine ⟨h.soft, h.stepLow, hs, fun a => ?_⟩
  cases a
  · exact hpan
  · exact htilt

theorem AxesIdle.axesInv {s : State} (h : AxesIdle s) : AxesInv s :=
  ⟨h.soft, h.stepLow, by simp [h.susp], fun _ => ⟨h.idle .pan, h.idle .tilt⟩⟩

theorem AxesInv.of_eq {s t : State} (h : AxesInv s) (hcfg : t.cfg = s.cfg) (hpos : t.pos = s.pos)
    (hstep : t.stepOut = s.stepOut) (hsusp : t.susp = s.susp) (hhphase : t.hphase = s.hphase)
    (hhomed : t.homed = s.homed) : AxesInv t := by
  obtain ⟨hsoft, hlow, hsuspended, hidle⟩ := h
  constructor
  · intro a
    rw [hcfg, hpos]
    exact hsoft a
  · rwa [hstep]
  · rwa [hsusp, hhphase, hhomed]
  · rwa [hsusp, hhphase]

theorem AxesIdle.of_eq {s t : State} (h : AxesIdle s) (hcfg : t.cfg = s.cfg) (hpos : t.pos = s.pos)
    (hstep : t.stepOut = s.stepOut) (hsusp : t.susp = s.susp) (hhphase : t.hphase = s.hphase) : AxesIdle t := by
  obtain ⟨hsoft, hlow, hnone, hidle⟩ := h
  constructor
  · intro a
    rw [hcfg, hpos]
    exact hsoft a
  · rwa [hstep]
  · rwa [hsusp]
  · rwa [hhphase]

/-! The soft range and the level of STEP under the writes of motion and homing. -/

theorem InSoftRange.set {s t : State} {a : Axis} {v : Int} (h : InSoftRange s) (hcfg : t.cfg = s.cfg)
    (hpos : t.pos = s.pos.set a v) (hv : s.cfg.softMin.get a ≤ v ∧ v ≤ s.cfg.softMax.get a) : InSoftRange t := by
  intro b
  rw [hcfg, hpos, PerAxis.get_set]
  split
  · rename_i hb
    exact hb ▸ hv
  · exact h b

/-- The reference position of an axis lies in its soft range (R9). -/
theorem homeRef_in_range (c : Config) (a : Axis) :
    c.softMin.get a ≤ c.homeRef.get a ∧ c.homeRef.get a ≤ c.softMax.get a := by
  cases a
  · exact c.panRange.2.2.2.2
  · exact c.tiltRange.2.2.2.2

theorem stepLow_of_pulses {s t : State} {a : Axis} (h : ∀ b, s.stepOut.get b = false)
    (ht : t.stepOut = s.stepOut ∨ t.stepOut = s.stepOut.set a false) : ∀ b, t.stepOut.get b = false := by
  intro b
  obtain ht | ht := ht
  · rw [ht, h b]
  · rw [ht, PerAxis.get_set, h b, ite_self]

/-- The last position of a move that began in the soft range lies in it: the soft check passed it (R177). -/
theorem MoveRun.end_in_range {c : Config} {a : Axis} {d : Dir} {p : Int} {ans : Nat → Bit} {n k : Nat}
    (h : MoveRun c a d p ans n k) (hp : c.softMin.get a ≤ p ∧ p ≤ c.softMax.get a) :
    c.softMin.get a ≤ p + d.sign * k ∧ p + d.sign * k ≤ c.softMax.get a := by
  cases k with
  | zero => simpa using hp
  | succ k =>
    have hlast := (inSoftRange_iff _ _ _).1 (h.soft k (Nat.lt_succ_self k))
    simpa using hlast

theorem AxesIdle.moveAxis {s : State} (h : AxesIdle s) (a : Axis) (n : Int) : AxesIdle (moveAxis a n s).2 := by
  by_cases hn : n = 0
  · rw [hn, moveAxis_zero]
    exact h
  · obtain ⟨k, hmove⟩ := moveAxis_spec a n s hn
    have hrange := hmove.run.end_in_range (h.soft a)
    rw [← hmove.result] at hrange
    refine ⟨h.soft.set hmove.cfg hmove.pos hrange, stepLow_of_pulses h.stepLow (a := a) ?_, hmove.susp.trans h.susp,
      fun b => by rw [hmove.hphase, h.idle b]⟩
    rw [hmove.stepOut]
    split
    · exact .inl rfl
    · exact .inr rfl

theorem AxesIdle.setMphase {s : State} (h : AxesIdle s) (m : MPhase) : AxesIdle (s.setMphase m) :=
  ⟨h.soft, h.stepLow, h.susp, h.idle⟩

theorem AxesIdle.setSusp_none {s : State} (h : AxesIdle s) : AxesIdle (s.setSusp none) :=
  ⟨h.soft, h.stepLow, rfl, h.idle⟩

theorem AxesIdle.txLine {s : State} (h : AxesIdle s) (text : List Byte) : AxesIdle (s.txLine text) :=
  h.of_eq (by simp) (by simp) (by simp) (by simp) (by simp)

theorem AxesIdle.pinRead {s : State} (h : AxesIdle s) (p : InPin) : AxesIdle (s.pinRead p).2 :=
  h.of_eq (by simp) (by simp) (by simp) (by simp) (by simp)

theorem AxesIdle.drawI32 {s : State} (h : AxesIdle s) : AxesIdle s.drawI32.2 :=
  h.of_eq (by simp) (by simp) (by simp) (by simp) (by simp)

theorem AxesIdle.absoluteDelta {s : State} (h : AxesIdle s) (a : Axis) (t : Int) :
    AxesIdle (absoluteDelta a t s).2 := by
  unfold Machine.absoluteDelta
  split
  · exact h
  · exact h.drawI32

/-! Homing. -/

/-- What a part of homing on `a` leaves when it has returned. -/
theorem AxesIdle.of_returned {s t : State} {a : Axis} {ok : Prop} [Decidable ok] (hsoft : InSoftRange s)
    (hcfg : t.cfg = s.cfg) (hpos : t.pos = if ok then s.pos.set a (s.cfg.homeRef.get a) else s.pos)
    (hlow : ∀ b, t.stepOut.get b = false) (hsusp : t.susp = none) (hidle : ∀ b, t.hphase.get b = .idle) :
    AxesIdle t := by
  refine ⟨?_, hlow, hsusp, hidle⟩
  split at hpos
  · exact hsoft.set hcfg hpos (homeRef_in_range s.cfg a)
  · intro b
    rw [hcfg, hpos]
    exact hsoft b

/-- What a part of homing on the axis of `p` leaves when the command is suspended at `p`. -/
theorem AxesInv.of_running {s t : State} {p : Suspended} (hsoft : InSoftRange s) (hcfg : t.cfg = s.cfg)
    (hpos : t.pos = s.pos) (hlow : ∀ b, t.stepOut.get b = false)
    (hphase : t.hphase.get p.axis = .reapproachingSlow ∧ t.hphase.get p.axis.other = .idle)
    (hhomed : t.homed.get p.axis = false) : AxesInv (t.setSusp (some p)) := by
  refine ⟨fun b => ?_, hlow, fun q hq => ?_, by simp⟩
  · rw [State.setSusp_cfg, State.setSusp_pos, hcfg, hpos]
    exact hsoft b
  · obtain rfl : p = q := Option.some.inj hq
    exact ⟨hphase.1, hphase.2, hhomed⟩

theorem AxesIdle.home {s : State} (h : AxesIdle s) {a : Axis} (hr : (home a s).1 ≠ .running) :
    AxesIdle (home a s).2 := by
  have hout := home_spec a s
  refine .of_returned (ok := (Machine.home a s).1 = .ok) h.soft hout.cfg hout.pos
    (stepLow_of_pulses h.stepLow hout.stepOut) (hout.susp.trans h.susp) fun b => ?_
  rw [hout.hphase, if_neg hr, PerAxis.get_set, h.idle b, ite_self]

theorem AxesIdle.home_running {s : State} (h : AxesIdle s) {p : Suspended}
    (hr : (Machine.home p.axis s).1 = .running) : AxesInv ((Machine.home p.axis s).2.setSusp (some p)) := by
  have hout := home_spec p.axis s
  refine .of_running h.soft hout.cfg (by simp [hout.pos, hr]) (stepLow_of_pulses h.stepLow hout.stepOut) ?_ ?_
  · rw [hout.hphase, if_pos hr, PerAxis.get_set_self, PerAxis.get_set_other, h.idle]
    exact ⟨rfl, rfl⟩
  · rw [hout.homed, PerAxis.get_set_self, hr]
    rfl

/-- A slice of the re-approach that `s` is suspended in, by whether the switch re-asserts. -/
theorem AxesInv.reapproach {s : State} (h : AxesInv s) {p : Suspended} (hp : s.susp = some p)
    (hr : (reapproach p.axis (s.setSusp none)).1 ≠ .running) : AxesIdle (reapproach p.axis (s.setSusp none)).2 := by
  have hout := reapproach_spec p.axis (s.setSusp none)
  obtain ⟨-, hother, -⟩ := h.suspended p hp
  have hok : (Machine.reapproach p.axis (s.setSusp none)).1 = .ok := by
    have hne := hout.notErr
    cases hstatus : (Machine.reapproach p.axis (s.setSusp none)).1 <;> simp_all
  refine .of_returned (s := s) (ok := (Machine.reapproach p.axis (s.setSusp none)).1 = .ok) h.soft hout.cfg hout.pos
    (stepLow_of_pulses h.stepLow hout.stepOut) hout.susp fun b => ?_
  rw [hout.hphase, if_pos hok, State.setSusp_hphase]
  obtain rfl | rfl := p.axis.eq_or_eq_other b
  · exact PerAxis.get_set_self _ _ _
  · rw [PerAxis.get_set_other, hother]

theorem AxesInv.reapproach_running {s : State} (h : AxesInv s) {p : Suspended} (hp : s.susp = some p)
    (hr : (Machine.reapproach p.axis (s.setSusp none)).1 = .running) :
    AxesInv ((Machine.reapproach p.axis (s.setSusp none)).2.setSusp (some p)) := by
  have hout := reapproach_spec p.axis (s.setSusp none)
  obtain ⟨hphase, hother, hhomed⟩ := h.suspended p hp
  refine .of_running h.soft hout.cfg (by simp [hout.pos, hr]) (stepLow_of_pulses h.stepLow hout.stepOut) ?_ ?_
  · simp [hout.hphase, hr, hphase, hother]
  · simp [hout.homed, hr, hhomed]

/-- The two outcomes of a part of homing, and what follows when it has returned. -/
theorem axesInv_afterHome {r : HomeStatus × State} {p : Suspended} {next : Bool → State → State}
    (hret : r.1 ≠ .running → AxesIdle r.2) (hrun : r.1 = .running → AxesInv (r.2.setSusp (some p)))
    (hnext : ∀ ok {u}, AxesIdle u → AxesInv (next ok u)) : AxesInv (afterHome p next r) := by
  unfold afterHome
  split
  · rename_i hok
    exact hnext true (hret (by simp [hok]))
  · rename_i herr
    exact hnext false (hret (by simp [herr]))
  · exact hrun ‹_›

/-! The homing commands. -/

theorem AxesIdle.reportHome {s : State} (h : AxesIdle s) (a : Axis) (ok : Bool) : AxesIdle (reportHome a ok s) := by
  cases ok
  · exact h.txLine _
  · exact h.txLine _

theorem AxesIdle.homeAllEnd {s : State} (h : AxesIdle s) (panOk tiltOk : Bool) :
    AxesIdle (homeAllEnd panOk tiltOk s) := by
  unfold Machine.homeAllEnd
  dsimp only
  split
  · exact (h.reportHome .tilt tiltOk).txLine _
  · exact h.reportHome .tilt tiltOk

/-- A homing command from its announcement on. -/
theorem AxesIdle.announcedHome {s : State} (h : AxesIdle s) (p : Suspended) {next : Bool → State → State}
    (hnext : ∀ ok {u}, AxesIdle u → AxesInv (next ok u)) :
    AxesInv (Machine.afterHome p next (Machine.home p.axis (s.txLine (homingLine p.axis)))) :=
  have hline := h.txLine (homingLine p.axis)
  axesInv_afterHome hline.home hline.home_running hnext

theorem AxesIdle.homeAllAfterPan {s : State} (h : AxesIdle s) (panOk : Bool) : AxesInv (homeAllAfterPan panOk s) := by
  have hreport := h.reportHome .pan panOk
  unfold Machine.homeAllAfterPan
  dsimp only
  split
  · exact hreport.axesInv
  · exact hreport.announcedHome (.homeAllTilt panOk) fun ok _ hu => (hu.homeAllEnd panOk ok).axesInv

theorem AxesIdle.rest {s : State} (h : AxesIdle s) (p : Suspended) (ok : Bool) : AxesInv (p.rest ok s) := by
  cases p with
  | homePan => exact (h.reportHome .pan ok).axesInv
  | homeTilt => exact (h.reportHome .tilt ok).axesInv
  | homeAllPan => exact h.homeAllAfterPan ok
  | homeAllTilt panOk => exact (h.homeAllEnd panOk ok).axesInv

theorem AxesInv.continueCommand {s : State} (h : AxesInv s) {p : Suspended} (hp : s.susp = some p) :
    AxesInv (continueCommand p s) :=
  axesInv_afterHome (h.reapproach hp) (h.reapproach_running hp) fun ok _ hu => hu.rest p ok

/-- Every command from a state without one leaves the axes' invariant. -/
theorem AxesIdle.exec {i : Instr} {s t : State} (h : AxesIdle s) (he : exec i s = .next t) : AxesInv t := by
  cases i <;> injection he with he <;> subst he
  case panRel n => exact ((h.moveAxis .pan n).txLine _).axesInv
  case tiltRel n => exact ((h.moveAxis .tilt n).txLine _).axesInv
  case panAbs target => exact (((h.absoluteDelta .pan target).moveAxis .pan _).txLine _).axesInv
  case tiltAbs target => exact (((h.absoluteDelta .tilt target).moveAxis .tilt _).txLine _).axesInv
  case homePan => exact h.announcedHome .homePan fun ok _ hu => (hu.reportHome .pan ok).axesInv
  case homeTilt => exact h.announcedHome .homeTilt fun ok _ hu => (hu.reportHome .tilt ok).axesInv
  case homeAll => exact h.announcedHome .homeAllPan fun ok _ hu => hu.homeAllAfterPan ok
  case center => exact (((h.moveAxis .pan _).moveAxis .tilt _).txLine _).axesInv
  case getPos => exact (h.txLine _).axesInv
  case getStatus => exact (((((h.pinRead _).pinRead _).pinRead _).pinRead _).txLine _).axesInv
  case ping => exact (h.txLine _).axesInv
  case unknown text => exact (h.txLine _).axesInv

end Sys2Proof.Machine
end

section
/-!
PROOFS. The run invariant holds at reset (10_state.md R45), every step keeps it, and a state that meets it answers a
next state (60_exceptions.md R270); the complete run (40_dispatch.md R152); who writes the homed flags (10_state.md R23,
R24).
-/

namespace Sys2Proof.Machine

theorem RunInv.of_parts {s : State} (hmail : MailboxInv s) (haxes : AxesInv s)
    (hexec : s.mphase = .exec ↔ s.susp.isSome = true) (hready : s.mphase = .exec → s.ready = true) : RunInv s where
  canonical := Memory.wf_of_whole hmail.whole
  whole := hmail.whole
  cursor := hmail.cursor
  pending := hmail.pending
  assembling := hmail.assembling
  soft := haxes.soft
  stepLow := haxes.stepLow
  execSuspended := hexec
  execReady := hready
  suspended := haxes.suspended
  idle := haxes.idle

/-- Outside Exec no command is suspended, so the axes are idle. -/
theorem RunInv.axesIdle {s : State} (h : RunInv s) (hm : s.mphase ≠ .exec) : AxesIdle s := by
  refine h.axes.axesIdle ?_
  rw [← Option.not_isSome_iff_eq_none]
  exact fun hsome => hm (h.execSuspended.2 hsome)

theorem runInv_of_axesIdle {s : State} (hmail : MailboxInv s) (haxes : AxesIdle s) (hm : s.mphase ≠ .exec) :
    RunInv s :=
  .of_parts hmail haxes.axesInv (by simp [hm, haxes.susp]) fun hexec => absurd hexec hm

theorem AxesInv.release {s : State} (h : AxesInv s) : AxesInv s.release :=
  h.of_eq (by simp) (by simp) (by simp) (by simp) (by simp) (by simp)

/-- The end of a command: released and polling, or suspended in Exec. -/
theorem runInv_endCommand {u : State} (hmail : MailboxInv u) (haxes : AxesInv u) (hm : u.mphase = .exec)
    (hr : u.ready = true) : RunInv u.endCommand := by
  cases hs : u.susp with
  | none =>
    rw [State.endCommand_of_none hs]
    exact .of_parts (hmail.release hr) haxes.release (by simp [hs]) (by simp)
  | some p =>
    rw [State.endCommand_of_some hs]
    exact .of_parts hmail haxes (by simp [hm, hs]) fun _ => hr

/-- The state a command begins in. -/
theorem axesIdle_beginCommand {s : State} (h : AxesIdle s) (line : List Byte) :
    AxesIdle (lineDraw line s.preempt).2.beginCommand := by
  have hpre : AxesIdle s.preempt := h.of_eq (by simp) (by simp) (by simp) (by simp) (by simp)
  have hdraw : AxesIdle (lineDraw line s.preempt).2 := by
    unfold lineDraw
    split
    · exact hpre.drawI32
    · exact hpre
  exact (hdraw.setMphase .exec).setSusp_none

theorem MailboxInv.beginCommand {s : State} (h : MailboxInv s) (line : List Byte) :
    MailboxInv (lineDraw line s).2.beginCommand :=
  h.of_eq (by simp [State.beginCommand]) (by simp [State.beginCommand]) (by simp [State.beginCommand])
    (by simp [State.beginCommand])

theorem runInv_bootStep {s : State} (h : RunInv s) (hm : s.mphase = .boot) : RunInv (bootStep s) := by
  have hidle := (h.axesIdle (by simp [hm])).txLine (ascii "READY")
  exact runInv_of_axesIdle ((h.mailbox.txBytes _).setMphase .poll) (hidle.setMphase .poll) (by simp [bootStep])

theorem runInv_preempt {s : State} (h : RunInv s) (hm : s.mphase = .poll) : RunInv s.preempt := by
  have hidle := h.axesIdle (by simp [hm])
  exact runInv_of_axesIdle h.mailbox.preempt (hidle.of_eq (by simp) (by simp) (by simp) (by simp) (by simp))
    (by simp [hm])

theorem runInv_execStep {s : State} (h : RunInv s) (hm : s.mphase = .exec) : RunInv (execStep s) := by
  have hr := h.execReady hm
  obtain ⟨p, hp⟩ := Option.isSome_iff_exists.1 (h.execSuspended.1 hm)
  have hf := CommandFrame.continueCommand p s
  rw [execStep_of_susp hp]
  exact runInv_endCommand (h.mailbox.commandFrame hr hf) (h.axes.continueCommand hp) (hf.mphase.trans hm)
    ((hf.ready hr).trans hr)

/-- Settles O56, over the four things a step can have done (`step_cases`): the mailbox's share is kept by RX and left
alone by commands, and the axes' share is kept by commands. -/
theorem stepKeepsTheInvariant : Obligations.StepKeepsTheInvariant := by
  intro s t h hs
  cases step_cases hs with
  | booted hm ht => exact ht ▸ runInv_bootStep h hm
  | polled hm _ ht => exact ht ▸ runInv_preempt h hm
  | continued hm ht => exact ht ▸ runInv_execStep h hm
  | ran hm hr line i u _ _ he ht =>
    have hbegin := axesIdle_beginCommand (h.axesIdle (by simp [hm])) line
    have hmail := h.mailbox.preempt.beginCommand line
    have hready : (lineDraw line s.preempt).2.beginCommand.ready = true := by simpa [State.beginCommand] using hr
    have hf := CommandFrame.exec he
    exact ht ▸ runInv_endCommand (hmail.commandFrame hready hf) (hbegin.exec he) hf.mphase
      ((hf.ready hready).trans hready)

/-- Settles O57: the cursor is inside the buffer, and a pending line is fetched and decodes (O18). -/
theorem invariantStatesNeverStop : Obligations.InvariantStatesNeverStop := by
  intro s h
  have hc : s.cursorBad = false := State.cursorBad_of_lt h.mailbox.cur_lt
  cases hm : s.mphase with
  | boot => exact ⟨_, step_boot hm hc⟩
  | exec => exact ⟨_, step_exec hm hc⟩
  | poll =>
    cases hr : s.preempt.ready with
    | false => exact ⟨_, (step_poll hm hc).trans (pollStep_of_not_ready hr)⟩
    | true =>
      obtain ⟨-, hline⟩ := h.mailbox.preempt.pending hr
      obtain ⟨line, hf, hne, hp, -⟩ := hline.fetch
      obtain ⟨i, hd, -⟩ := (everyLineDecodesWellFormed (lineDraw line s.preempt).1 line).1 hne hp
      obtain ⟨t, ht⟩ := exec_next i (lineDraw line s.preempt).2.beginCommand
      exact ⟨_, step_of_line hm hc hr hf hd ht⟩

/-! Reset. -/

theorem inSoftRange_reset : InSoftRange State.reset := by
  intro a
  cases a
  · exact ⟨Config.hardware.panRange.2.1, Config.hardware.panRange.2.2.1⟩
  · exact ⟨Config.hardware.tiltRange.2.1, Config.hardware.tiltRange.2.2.1⟩

theorem stepLow_reset (a : Axis) : State.reset.stepOut.get a = false := by cases a <;> rfl

theorem runInv_reset : RunInv State.reset :=
  runInv_of_axesIdle ⟨State.reset_buf_whole, Nat.zero_le _, by simp [State.reset], by simp [State.reset]⟩
    ⟨inSoftRange_reset, stepLow_reset, rfl, fun a => by cases a <;> rfl⟩ (by simp [State.reset])

/-- Settles O55: with an empty trace nothing has risen and nothing has been pulsed. -/
theorem resetMeetsTheInvariants : Obligations.ResetMeetsTheInvariants := by
  refine ⟨runInv_reset, fun a => ⟨rfl, stepLow_reset a⟩, fun a => ?_, fun p hp => ?_⟩
  · exact Option.some_ne_none _
  · cases hp

/-! Complete runs (40_dispatch.md R152). -/

theorem CompleteRun.length_unique {s t t' : State} {n n' : Nat} (h : CompleteRun s n t) (h' : CompleteRun s n' t') :
    n = n' := by
  obtain ⟨hrun, hq, hfirst⟩ := h
  obtain ⟨hrun', hq', hfirst'⟩ := h'
  rcases Nat.lt_trichotomy n n' with hlt | heq | hlt
  · exact absurd hq (hfirst' n t hlt hrun)
  · exact heq
  · exact absurd hq' (hfirst n' t' hlt hrun')

theorem RunsTo.unique {s : State} {r r' : RunResult} (h : RunsTo s r) (h' : RunsTo s r') : r = r' := by
  obtain ⟨n, t, hc, rfl⟩ := h
  obtain ⟨n', t', hc', rfl⟩ := h'
  obtain rfl := hc.length_unique hc'
  obtain rfl : t = t' := Host.Outcome.next.inj (hc.1.symm.trans hc'.1)
  rfl

/-- From a quiescent state any number of steps only uses up ENV's script (O3). -/
theorem Quiescent.run {t : State} (h : Quiescent t) (hcur : t.cur < t.cfg.rxCap) (m : Nat) :
    ∃ u, Sys2Proof.core.run m t = .next u ∧ Quiescent u ∧
      u = t.setEnv { t.env with arrivals := u.env.arrivals } := by
  induction m generalizing t with
  | zero => exact ⟨t, rfl, h, rfl⟩
  | succ m ih =>
    obtain ⟨hstep, hq⟩ := quiescentPollChangesNothing t h hcur
    obtain ⟨u, hrun, hqu, hu⟩ := ih hq hcur
    exact ⟨u, (run_succ m hstep).trans hrun, hqu, hu⟩

/-- Settles O4: minimality fixes the length of a complete run, the poll rests (O3), and steps keep the invariant
(O56). -/
theorem completeRunHasOneResult : Obligations.CompleteRunHasOneResult := by
  refine ⟨fun s r r' => RunsTo.unique, fun s t n m hc hcur => hc.2.1.run hcur m, fun s r h hr => ?_⟩
  obtain ⟨n, t, ⟨hrun, -⟩, rfl⟩ := hr
  have hinv : RunInv t := run_induction RunInv (fun _ _ => stepKeepsTheInvariant _ _) n h hrun
  exact ⟨hinv, hinv.stepLow⟩

/-! The homed flags. -/

/-- The flags, the homing phases and MAIN's place in a command are as they were. -/
structure HomingUntouched (s t : State) : Prop where
  homed : t.homed = s.homed
  hphase : t.hphase = s.hphase
  susp : t.susp = s.susp

theorem HomingUntouched.trans {s t u : State} (hst : HomingUntouched s t) (htu : HomingUntouched t u) :
    HomingUntouched s u :=
  ⟨htu.homed.trans hst.homed, htu.hphase.trans hst.hphase, htu.susp.trans hst.susp⟩

theorem homingUntouched_txLine (s : State) (text : List Byte) : HomingUntouched s (s.txLine text) :=
  ⟨s.txLine_homed text, s.txLine_hphase text, s.txLine_susp text⟩

theorem homingUntouched_pinRead (s : State) (p : InPin) : HomingUntouched s (s.pinRead p).2 :=
  ⟨s.pinRead_homed p, s.pinRead_hphase p, s.pinRead_susp p⟩

theorem homingUntouched_moveAxis (s : State) (a : Axis) (n : Int) : HomingUntouched s (moveAxis a n s).2 := by
  by_cases hn : n = 0
  · rw [hn, moveAxis_zero]
    exact ⟨rfl, rfl, rfl⟩
  · obtain ⟨k, hmove⟩ := moveAxis_spec a n s hn
    exact ⟨hmove.homed, hmove.hphase, hmove.susp⟩

theorem homingUntouched_absoluteDelta (s : State) (a : Axis) (t : Int) :
    HomingUntouched s (absoluteDelta a t s).2 := by
  unfold absoluteDelta
  split
  · exact ⟨rfl, rfl, rfl⟩
  · exact ⟨s.drawI32_homed, s.drawI32_hphase, s.drawI32_susp⟩

theorem homingUntouched_relativeMove (s : State) (a : Axis) (n : Int) : HomingUntouched s (relativeMove a n s) :=
  (homingUntouched_moveAxis s a n).trans (homingUntouched_txLine _ _)

theorem homingUntouched_absoluteMove (s : State) (a : Axis) (t : Int) : HomingUntouched s (absoluteMove a t s) :=
  ((homingUntouched_absoluteDelta s a t).trans (homingUntouched_moveAxis _ a _)).trans (homingUntouched_txLine _ _)

theorem homingUntouched_exec {i : Instr} {s t : State} (hi : isHomingInstr i = false) (he : exec i s = .next t) :
    HomingUntouched s t := by
  cases i <;> injection he with he <;> subst he
  case panRel n => exact homingUntouched_relativeMove s .pan n
  case tiltRel n => exact homingUntouched_relativeMove s .tilt n
  case panAbs target => exact homingUntouched_absoluteMove s .pan target
  case tiltAbs target => exact homingUntouched_absoluteMove s .tilt target
  case homePan | homeTilt | homeAll => cases hi
  case center =>
    exact ((homingUntouched_moveAxis s .pan _).trans (homingUntouched_moveAxis _ .tilt _)).trans
      (homingUntouched_txLine _ _)
  case getPos => exact homingUntouched_txLine s _
  case getStatus =>
    exact ((((homingUntouched_pinRead s _).trans (homingUntouched_pinRead _ _)).trans
      (homingUntouched_pinRead _ _)).trans (homingUntouched_pinRead _ _)).trans (homingUntouched_txLine _ _)
  case ping => exact homingUntouched_txLine s _
  case unknown text => exact homingUntouched_txLine s _

/-- Settles O53: the commands that do not home are moves, reads and lines; boot is one line, the poll one boundary. -/
theorem onlyHomingWritesHomed : Obligations.OnlyHomingWritesHomed := by
  refine ⟨fun i s t hi he => ?_, fun s t hm hr hs => ?_⟩
  · obtain ⟨hhomed, hhphase, hsusp⟩ := homingUntouched_exec hi he
    exact ⟨hhomed, hhphase, hsusp⟩
  · cases step_cases hs with
    | booted _ ht => simp [ht, bootStep]
    | polled _ _ ht => simp [ht]
    | ran _ hr' => rw [hr] at hr'; cases hr'
    | continued hm' _ => exact absurd hm' hm

end Sys2Proof.Machine
end

section
/-!
PROOFS. The primitives (40_dispatch.md R146; 41_motion.md R170, R171) and GET_STATUS (43_query.md R251 to R254): their
events and their frames.
-/

namespace Sys2Proof.Machine

/-! Frames compose. -/

theorem MailboxKept.trans {s t u : State} (hst : MailboxKept s t) (htu : MailboxKept t u) : MailboxKept s u := by
  obtain ⟨hmem, hcur, hready⟩ := hst
  obtain ⟨hmem', hcur', hready'⟩ := htu
  exact ⟨fun i => (hmem' i).trans (hmem i), hcur'.trans hcur, hready'.trans hready⟩

theorem AxisKept.trans {a : Axis} {s t u : State} (hst : AxisKept a s t) (htu : AxisKept a t u) : AxisKept a s u := by
  obtain ⟨hpos, hhomed, hphase, hstep, hdir⟩ := hst
  obtain ⟨hpos', hhomed', hphase', hstep', hdir'⟩ := htu
  exact ⟨hpos'.trans hpos, hhomed'.trans hhomed, hphase'.trans hphase, hstep'.trans hstep, hdir'.trans hdir⟩

theorem ControlKept.trans {s t u : State} (hst : ControlKept s t) (htu : ControlKept t u) : ControlKept s u := by
  obtain ⟨hphase, hsusp, hcfg⟩ := hst
  obtain ⟨hphase', hsusp', hcfg'⟩ := htu
  exact ⟨hphase'.trans hphase, hsusp'.trans hsusp, hcfg'.trans hcfg⟩

theorem NothingMoved.trans {s t u : State} (hst : NothingMoved s t) (htu : NothingMoved t u) : NothingMoved s u := by
  obtain ⟨hmail, hpan, htilt, hcontrol, hloop⟩ := hst
  obtain ⟨hmail', hpan', htilt', hcontrol', hloop'⟩ := htu
  exact ⟨hmail.trans hmail', hpan.trans hpan', htilt.trans htilt', hcontrol.trans hcontrol', hloop'.trans hloop⟩

theorem NothingMoved.axisKept {s t : State} (h : NothingMoved s t) (a : Axis) : AxisKept a s t := by
  obtain ⟨-, hpan, htilt, -, -⟩ := h
  cases a
  · exact hpan
  · exact htilt

theorem NothingMoved.ready {s t : State} (h : NothingMoved s t) (hr : s.ready = true) : t.ready = true := by
  obtain ⟨⟨-, -, hready⟩, -⟩ := h
  exact hready.trans hr

/-! The three primitives. -/

/-- Settles O25: the events and registers of the four actions of a pulse; the mailbox by the frame of every unit. -/
theorem pulseIsSetDelayClearDelay : Obligations.PulseIsSetDelayClearDelay := by
  intro s a hr
  refine ⟨s.mainTrace_pulse a, by simp, s.pulse_dirOut a, s.pulse_pos a, ⟨?_, ?_, ?_, ?_⟩, s.pulse_loop a⟩
  · exact (unitClosed_commandFrame.pulse s a).mailboxKept hr
  · simp [AxisKept]
  · exact ⟨s.pulse_mphase a, s.pulse_susp a, s.pulse_cfg a⟩
  · simp

theorem dirLevel_eq_decide (p : Polarity) (d : Dir) :
    dirLevel p d = decide ((d = .plus ∧ p = .normal) ∨ (d = .minus ∧ p = .inverted)) := by
  cases d <;> cases p <;> rfl

/-- Settles O26: the level written is `dirLevel`, and the event tells which it is. -/
theorem setDirWritesLevelAndSettles : Obligations.SetDirWritesLevelAndSettles := by
  intro s a d hr
  have hlevel : (s.setDir a d).dirOut.get a = dirLevel (s.cfg.polarity.get a) d := by simp
  refine ⟨hlevel.trans (dirLevel_eq_decide _ d), ?_, s.setDir_pos a d, s.setDir_stepOut a d, ⟨?_, ?_, ?_, ?_⟩,
    s.setDir_loop a d⟩
  · rw [hlevel, State.mainTrace_setDir, dirEvents]
  · exact (unitClosed_commandFrame.setDir s a d).mailboxKept hr
  · simp [AxisKept]
  · exact ⟨s.setDir_mphase a d, s.setDir_susp a d, s.setDir_cfg a d⟩
  · simp

/-- Settles O27: the bytes of the text and of `TX_EOL`, and the frame of a line. -/
theorem txLineSendsTextThenEol : Obligations.TxLineSendsTextThenEol := by
  intro s text hr
  refine ⟨?_, State.txLine_nothingMoved text hr⟩
  rw [State.mainTrace_txLine, lineEvents, List.map_append, List.append_assoc]

/-! GET_STATUS. -/

theorem State.pinRead_nothingMoved {s : State} (p : InPin) (hr : s.ready = true) : NothingMoved s (s.pinRead p).2 :=
  ⟨(unitClosed_commandFrame.pinRead s p).mailboxKept hr, by simp [AxisKept], by simp [AxisKept],
    ⟨s.pinRead_mphase p, s.pinRead_susp p, s.pinRead_cfg p⟩, s.pinRead_loop p⟩

/-- A switch read as 0 is reported as 1. -/
theorem statusDigit_eq (v : Bit) : statusDigit v = ascii (if v then "0" else "1") := by cases v <;> rfl

theorem bitDigit_eq (v : Bit) : bitDigit v = ascii (if v then "1" else "0") := by cases v <;> rfl

/-- The state after the four reads of GET_STATUS, in field order. -/
def statusReads (s : State) : State :=
  ((((s.pinRead (.neg .pan)).2.pinRead (.pos .pan)).2.pinRead (.neg .tilt)).2.pinRead (.pos .tilt)).2

theorem exec_getStatus_eq_txLine (s : State) : exec .getStatus s = .next ((statusReads s).txLine
    (statusLine (s.answer 0) (s.answer 1) (s.answer 2) (s.answer 3) s.homed.pan s.homed.tilt)) := by
  simp [exec, execGetStatus, statusReads, PerAxis.get]

theorem statusReads_mainTrace (s : State) : (statusReads s).mainTrace = s.mainTrace ++
    [.pinRead (.neg .pan) (s.answer 0), .pinRead (.pos .pan) (s.answer 1), .pinRead (.neg .tilt) (s.answer 2),
      .pinRead (.pos .tilt) (s.answer 3)] := by
  simp [statusReads]

theorem statusReads_nothingMoved {s : State} (hr : s.ready = true) : NothingMoved s (statusReads s) := by
  have h1 := State.pinRead_nothingMoved (.neg .pan) hr
  have h2 := h1.trans (State.pinRead_nothingMoved (.pos .pan) (h1.ready hr))
  have h3 := h2.trans (State.pinRead_nothingMoved (.neg .tilt) (h2.ready hr))
  exact h3.trans (State.pinRead_nothingMoved (.pos .tilt) (h3.ready hr))

/-- Settles O49: the four reads, then one line. -/
theorem getStatusReportsInputsAndFlags : Obligations.GetStatusReportsInputsAndFlags := by
  intro s hr
  have hreads := statusReads_nothingMoved hr
  have hcfg : (statusReads s).cfg = s.cfg := by simp [statusReads]
  refine ⟨_, exec_getStatus_eq_txLine s, ?_, hreads.trans (State.txLine_nothingMoved _ (hreads.ready hr))⟩
  rw [State.mainTrace_txLine, statusReads_mainTrace, hcfg, statusLine]
  simp only [statusDigit_eq, bitDigit_eq]

end Sys2Proof.Machine
end

section
/-!
PROOFS. `move_axis` and the motion commands (41_motion.md R173 to R190). `MoveDone` says of every count, 0 included,
what one call does; the statements are read off from it.
-/

namespace Sys2Proof.Machine

/-- What `move_axis(a, n)` answers and leaves after `k` steps, for every `n` (R173, R180). -/
structure MoveDone (a : Axis) (n : Int) (k : Nat) (s : State) (r : Int) (t : State) : Prop where
  run : MoveRun s.cfg a (dirOf n) (s.pos.get a) s.answer (boundOf n s) k
  result : r = (dirOf n).sign * k
  cfg : t.cfg = s.cfg
  pos : t.pos = s.pos.set a (s.pos.get a + r)
  homed : t.homed = s.homed
  stepOut : t.stepOut = if k = 0 then s.stepOut else s.stepOut.set a false
  dirOut : t.dirOut = if n = 0 then s.dirOut else s.dirOut.set a (dirLevel (s.cfg.polarity.get a) (dirOf n))
  mphase : t.mphase = s.mphase
  hphase : t.hphase = s.hphase
  susp : t.susp = s.susp
  mailbox : s.ready = true → t.ready = s.ready ∧ t.buf = s.buf ∧ t.cur = s.cur
  events : t.mainTrace = s.mainTrace ++ moveAxisEvents s a n k
  answer : ∀ i, t.answer i = s.answer (i + if k < boundOf n s then k + 1 else k)

theorem boundOf_of_ne {n : Int} (s : State) (hn : n ≠ i32Min) : boundOf n s = n.natAbs := if_neg hn

theorem boundOf_zero (s : State) : boundOf 0 s = 0 := boundOf_of_ne s (by decide)

theorem MoveRun.zero (c : Config) (a : Axis) (d : Dir) (p : Int) (ans : Nat → Bit) : MoveRun c a d p ans 0 0 :=
  ⟨le_refl 0, by simp, by simp, by simp⟩

theorem moveAxis_done (a : Axis) (n : Int) (s : State) :
    ∃ k, MoveDone a n k s (moveAxis a n s).1 (moveAxis a n s).2 := by
  by_cases hn : n = 0
  · subst hn
    rw [moveAxis_zero]
    refine ⟨0, ?_⟩
    constructor <;> simp [boundOf_zero, MoveRun.zero, moveAxisEvents, PerAxis.set_get_self]
  · obtain ⟨k, h⟩ := moveAxis_spec a n s hn
    refine ⟨k, h.run, h.result, h.cfg, h.pos, h.homed, h.stepOut, ?_, h.mphase, h.hphase, h.susp, h.mailbox, ?_,
      h.answer⟩
    · rw [h.dirOut, if_neg hn]
    · rw [h.events, moveAxisEvents, if_neg hn, List.append_assoc]

namespace MoveDone

variable {a : Axis} {n r : Int} {k : Nat} {s t : State}

theorem steps_zero (h : MoveDone a n k s r t) (hn : n = 0) : k = 0 := by
  have hle := h.run.le
  rw [hn, boundOf_zero] at hle
  exact Nat.le_zero.1 hle

theorem pos_self (h : MoveDone a n k s r t) : t.pos.get a = s.pos.get a + r := by rw [h.pos, PerAxis.get_set_self]

theorem pos_other (h : MoveDone a n k s r t) : t.pos.get a.other = s.pos.get a.other := by
  rw [h.pos, PerAxis.get_set_other]

theorem dirOut_self (h : MoveDone a n k s r t) :
    t.dirOut.get a = if n = 0 then s.dirOut.get a else dirLevel (s.cfg.polarity.get a) (dirOf n) := by
  rw [h.dirOut]
  split
  · rfl
  · exact PerAxis.get_set_self _ _ _

theorem dirOut_other (h : MoveDone a n k s r t) : t.dirOut.get a.other = s.dirOut.get a.other := by
  rw [h.dirOut]
  split
  · rfl
  · exact PerAxis.get_set_other _ _ _

theorem stepOut_self (h : MoveDone a n k s r t) : t.stepOut.get a = false ∨ t.stepOut.get a = s.stepOut.get a := by
  rw [h.stepOut]
  split
  · exact .inr rfl
  · exact .inl (PerAxis.get_set_self _ _ _)

theorem stepOut_other (h : MoveDone a n k s r t) : t.stepOut.get a.other = s.stepOut.get a.other := by
  rw [h.stepOut]
  split
  · rfl
  · exact PerAxis.get_set_other _ _ _

theorem mailboxKept (h : MoveDone a n k s r t) (hr : s.ready = true) : MailboxKept s t := by
  obtain ⟨hready, hbuf, hcur⟩ := h.mailbox hr
  exact ⟨fun i => congrArg (Memory.read · i) hbuf, hcur, hready⟩

theorem onlyMoved (h : MoveDone a n k s r t) (hr : s.ready = true) : OnlyMoved a s t :=
  ⟨h.mailboxKept hr, ⟨h.pos_other, by rw [h.homed], by rw [h.hphase], h.stepOut_other, h.dirOut_other⟩,
    ⟨h.mphase, h.susp, h.cfg⟩, by rw [h.homed], by rw [h.hphase], h.stepOut_self⟩

/-- The count says both how far and which way. -/
theorem natAbs_result (h : MoveDone a n k s r t) : r.natAbs = k := by
  rw [h.result]
  cases dirOf n <;> simp [Dir.sign]

end MoveDone

theorem OnlyMoved.trans_nothingMoved {a : Axis} {s t u : State} (h : OnlyMoved a s t) (hu : NothingMoved t u) :
    OnlyMoved a s u := by
  obtain ⟨hmail, hother, hcontrol, hhomed, hhphase, hstep⟩ := h
  obtain ⟨-, hhomed', hhphase', hstep', -⟩ := hu.axisKept a
  obtain ⟨hmail', -, -, hcontrol', -⟩ := id hu
  refine ⟨hmail.trans hmail', hother.trans (hu.axisKept _), hcontrol.trans hcontrol', hhomed'.trans hhomed,
    hhphase'.trans hhphase, ?_⟩
  rwa [hstep']

theorem OnlyMoved.txLine {a : Axis} {s t : State} (h : OnlyMoved a s t) (hr : s.ready = true) (text : List Byte) :
    OnlyMoved a s (t.txLine text) := by
  obtain ⟨⟨-, -, hready⟩, -⟩ := id h
  exact h.trans_nothingMoved (State.txLine_nothingMoved text (hready.trans hr))

theorem sign_dirOf_mul (n : Int) (k : Nat) : (dirOf n).sign * (k : Int) = if 0 < n then (k : Int) else -(k : Int) := by
  unfold dirOf
  split <;> simp [Dir.sign]

/-- Settles O29: `MoveDone`, with the sign of the direction and the events of a count other than 0 written out. -/
theorem moveAxisFollowsItsLoop : Obligations.MoveAxisFollowsItsLoop := by
  intro a n s hn hr
  obtain ⟨k, h⟩ := moveAxis_done a n s
  refine ⟨k, h.run, h.result.trans (sign_dirOf_mul n k), h.pos_self, ?_, ?_, h.onlyMoved hr⟩
  · rw [h.events, moveAxisEvents, if_neg hn, ← List.append_assoc]
    rfl
  · rw [h.dirOut_self, if_neg hn]
    rfl

/-! What the events of a move count. -/

theorem count_readRounds {e : Event} {p : InPin} {v : Bit} (he : e ≠ .pinRead p v) (es : List Event) (n : Nat) :
    (readRounds p v es n).count e = n * es.count e := by
  induction n with
  | zero => simp [readRounds]
  | succ n ih => rw [readRounds, List.count_append, ih, List.count_cons_of_ne he.symm, Nat.succ_mul, Nat.add_comm]

theorem count_pinSet_dirEvents (c : Config) (a b : Axis) (d : Dir) :
    (dirEvents c a d).count (.pinSet (.step b)) = 0 := by
  unfold dirEvents
  split <;> simp

theorem count_pinSet_pulseEvents (a b : Axis) : (pulseEvents a).count (.pinSet (.step b)) = if b = a then 1 else 0 := by
  cases a <;> cases b <;> decide

theorem count_pinSet_moveAxisEvents (s : State) (a b : Axis) {n : Int} {k : Nat} (hk : n = 0 → k = 0) :
    (moveAxisEvents s a n k).count (.pinSet (.step b)) = if b = a then k else 0 := by
  unfold moveAxisEvents
  split
  · simp [hk ‹_›]
  · rw [List.count_append, count_pinSet_dirEvents, moveEvents, List.count_append, count_readRounds (by simp),
      count_pinSet_pulseEvents]
    have hlast : (if k < boundOf n s then [Event.pinRead (limitPin a (dirOf n)) (s.answer k)] else []).count
        (.pinSet (.step b)) = 0 := by split <;> simp
    rw [hlast]
    split <;> simp

theorem filter_isPinRead_readRounds {p : InPin} {v : Bit} {es : List Event} (hes : es.filter Event.isPinRead = [])
    (n : Nat) : ((readRounds p v es n).filter Event.isPinRead).length = n := by
  induction n with
  | zero => rfl
  | succ n ih =>
    rw [readRounds, List.filter_append, List.filter_cons_of_pos rfl, hes, List.length_append, ih, List.length_singleton,
      Nat.add_comm]

theorem filter_isPinRead_moveAxisEvents (s : State) (a : Axis) {n : Int} {k : Nat} (hk : n = 0 → k = 0) :
    ((moveAxisEvents s a n k).filter Event.isPinRead).length = if k < boundOf n s then k + 1 else k := by
  unfold moveAxisEvents
  split
  · rename_i hn
    simp [hn, hk hn, boundOf_zero]
  · have hdir : (dirEvents s.cfg a (dirOf n)).filter Event.isPinRead = [] := by
      unfold dirEvents
      split <;> rfl
    rw [List.filter_append, hdir, List.nil_append, moveEvents, List.filter_append, List.length_append,
      filter_isPinRead_readRounds rfl]
    split <;> rfl

/-- Settles O30: the count, the position and the events of `MoveDone`; the last position passed the soft check. -/
theorem moveAxisConservesSteps : Obligations.MoveAxisConservesSteps := by
  intro a n s hn
  obtain ⟨k, h⟩ := moveAxis_done a n s
  have habs := h.natAbs_result
  have hle : k ≤ n.natAbs := h.run.le.trans (boundOf_le n s hn)
  have hresult := h.result.trans (sign_dirOf_mul n k)
  refine ⟨habs ▸ hle, ?_, h.pos_self, h.pos_other, ?_, ?_, fun hp => ?_, ?_⟩
  · split at hresult <;> omega
  · rw [h.events, List.count_append, count_pinSet_moveAxisEvents s a a h.steps_zero, if_pos rfl, habs]
  · rw [h.events, List.count_append, count_pinSet_moveAxisEvents s a _ h.steps_zero, if_neg a.other_ne, Nat.add_zero]
  · have hend := h.run.end_in_range hp
    rw [← h.result] at hend
    rw [h.pos_self]
    omega
  · have hbound : (if n = 0 then 0 else boundOf n s) = boundOf n s := by
      split
      · rename_i hzero
        rw [hzero, boundOf_zero]
      · rfl
    rw [h.events, List.filter_append, List.length_append, filter_isPinRead_moveAxisEvents s a h.steps_zero, habs,
      hbound]

/-! Moves that no switch stops. -/

/-- Such a move ends where it was asked to, or at the soft bound on that side (R181 item 7). -/
theorem MoveRun.end_of_unobstructed {c : Config} {a : Axis} {d : Dir} {p : Int} {ans : Nat → Bit} {n k : Nat}
    (h : MoveRun c a d p ans n k) (hp : c.softMin.get a ≤ p ∧ p ≤ c.softMax.get a) (hans : ∀ i, i < n → ans i = true) :
    p + d.sign * k = max (c.softMin.get a) (min (c.softMax.get a) (p + d.sign * n)) := by
  have hend := h.end_in_range hp
  have hle := h.le
  obtain heq | hlt := Nat.eq_or_lt_of_le hle
  · rw [heq] at hend ⊢
    rw [min_eq_right hend.2, max_eq_right hend.1]
  · have hout : ¬(c.softMin.get a ≤ p + d.sign * (k + 1) ∧ p + d.sign * (k + 1) ≤ c.softMax.get a) := by
      rw [← inSoftRange_iff]
      have hstop := h.stop hlt
      rw [hans k hlt] at hstop
      simpa using hstop
    cases d <;> simp only [Dir.sign] at * <;> omega

theorem sign_dirOf_mul_natAbs (n : Int) : (dirOf n).sign * (n.natAbs : Int) = n := by
  rw [sign_dirOf_mul]
  split <;> omega

theorem MoveDone.pos_of_unobstructed {a : Axis} {n r : Int} {k : Nat} {s t : State} (h : MoveDone a n k s r t)
    (hn : n ≠ i32Min) (hp : s.cfg.softMin.get a ≤ s.pos.get a ∧ s.pos.get a ≤ s.cfg.softMax.get a)
    (hans : ∀ i, i < n.natAbs → s.answer i = true) :
    s.pos.get a + r = max (s.cfg.softMin.get a) (min (s.cfg.softMax.get a) (s.pos.get a + n)) := by
  have hrun := h.run
  rw [boundOf_of_ne s hn] at hrun
  rw [h.result, hrun.end_of_unobstructed hp hans, sign_dirOf_mul_natAbs]

/-- Settles O31: the final position is the clamp of the one asked for. -/
theorem unobstructedMoveClamps : Obligations.UnobstructedMoveClamps := by
  intro a n s hn hlo hhi hans
  obtain ⟨k, h⟩ := moveAxis_done a n s
  have hpos := h.pos_of_unobstructed hn ⟨hlo, hhi⟩ hans
  omega

/-! The relative moves. -/

theorem okLine_eq (a : Axis) (v : Int) : okLine a v = okText a ++ dec v := by cases a <;> rfl

theorem exec_relInstr (a : Axis) (n : Int) (s : State) : exec (relInstr a n) s = .next (relativeMove a n s) := by
  cases a <;> rfl

/-- Settles O32: `move_axis`, then the line with its count. -/
theorem relativeMoveCompletes : Obligations.RelativeMoveCompletes := by
  intro a n s hr _
  obtain ⟨k, h⟩ := moveAxis_done a n s
  refine ⟨k, _, _, exec_relInstr a n s, h.steps_zero, fun _ => h.run, h.result, ?_, ?_,
    (h.onlyMoved hr).txLine hr _, ?_⟩
  · rw [relativeMove, State.txLine_pos, h.pos_self]
  · rw [relativeMove, State.mainTrace_txLine, h.events, h.cfg, okLine_eq]
  · rw [relativeMove, State.txLine_dirOut, h.dirOut_self]

/-! The absolute moves. -/

theorem boundOf_drawI32 (n : Int) (s : State) : boundOf n s.drawI32.2 = boundOf n s := by
  have hbounds : s.drawI32.2.env.bounds = s.env.bounds ∧ s.drawI32.2.env.drawnBounds = s.env.drawnBounds := by
    unfold State.drawI32
    split <;> exact ⟨rfl, rfl⟩
  rw [boundOf, boundOf, State.drawBound_fst_congr hbounds.1 hbounds.2]

theorem moveAxisEvents_drawI32 (s : State) (a : Axis) (n : Int) (k : Nat) :
    moveAxisEvents s.drawI32.2 a n k = moveAxisEvents s a n k := by
  simp [moveAxisEvents, boundOf_drawI32]

/-- The draw of a delta shows in nothing that a move reads or writes (R188). -/
theorem MoveDone.of_drawI32 {a : Axis} {n r : Int} {k : Nat} {s t : State} (h : MoveDone a n k s.drawI32.2 r t) :
    MoveDone a n k s r t := by
  obtain ⟨run, result, cfg, pos, homed, stepOut, dirOut, mphase, hphase, susp, mailbox, events, answer⟩ := h
  simp only [State.drawI32_cfg, State.drawI32_pos, boundOf_drawI32, State.drawI32_homed, State.drawI32_stepOut,
    State.drawI32_dirOut, State.drawI32_mphase, State.drawI32_hphase, State.drawI32_susp, State.drawI32_ready,
    State.drawI32_buf, State.drawI32_cur, State.mainTrace_drawI32, moveAxisEvents_drawI32, State.drawI32_answer]
    at cfg pos homed stepOut dirOut mphase hphase susp mailbox events answer run
  have hansw : s.drawI32.2.answer = s.answer := funext s.drawI32_answer
  rw [hansw] at run
  exact ⟨run, result, cfg, pos, homed, stepOut, dirOut, mphase, hphase, susp, mailbox, events, answer⟩

theorem exec_absInstr (a : Axis) (target : Int) (s : State) :
    exec (absInstr a target) s = .next (absoluteMove a target s) := by
  cases a <;> rfl

/-- An absolute move is a move by the delta, then the line with the new position (R186 to R188). -/
theorem absoluteMove_done (a : Axis) (target : Int) (s : State) : ∃ k r u, MoveDone a (deltaOf a target s) k s r u ∧
    absoluteMove a target s = u.txLine (okLine a (u.pos.get a)) := by
  by_cases hin : InI32 (target - s.pos.get a)
  · have hdelta : absoluteDelta a target s = (deltaOf a target s, s) := by
      rw [absoluteDelta, deltaOf, if_pos hin, if_pos hin]
    obtain ⟨k, h⟩ := moveAxis_done a (deltaOf a target s) s
    exact ⟨k, _, _, h, by rw [absoluteMove, hdelta]⟩
  · have hdelta : absoluteDelta a target s = (deltaOf a target s, s.drawI32.2) := by
      rw [absoluteDelta, deltaOf, if_neg hin, if_neg hin]
    obtain ⟨k, h⟩ := moveAxis_done a (deltaOf a target s) s.drawI32.2
    exact ⟨k, _, _, h.of_drawI32, by rw [absoluteMove, hdelta]⟩

/-- Settles O33: the move by the delta, then the line with the position it left. -/
theorem absoluteMoveCompletes : Obligations.AbsoluteMoveCompletes := by
  intro a target s hr
  obtain ⟨k, r, u, h, hmove⟩ := absoluteMove_done a target s
  refine ⟨k, r, _, (exec_absInstr a target s).trans (congrArg _ hmove), h.steps_zero, fun _ => h.run, h.result, ?_, ?_,
    (h.onlyMoved hr).txLine hr _, ?_⟩
  · rw [State.txLine_pos, h.pos_self]
  · rw [State.mainTrace_txLine, State.txLine_pos, h.events, h.cfg, okLine_eq]
  · rw [State.txLine_dirOut, h.dirOut_self]

/-- Settles O34: the clamp of the position asked for, which is the target. -/
theorem unobstructedAbsoluteMoveReachesTarget : Obligations.UnobstructedAbsoluteMoveReachesTarget := by
  intro a target s hin hmin hlo hhi hans
  have hdelta : deltaOf a target s = target - s.pos.get a := if_pos hin
  obtain ⟨k, r, u, h, hmove⟩ := absoluteMove_done a target s
  rw [hdelta] at h
  have hpos := h.pos_of_unobstructed hmin ⟨hlo, hhi⟩ hans
  rw [add_sub_cancel] at hpos
  exact ⟨_, (exec_absInstr a target s).trans (congrArg _ hmove), by rw [State.txLine_pos, h.pos_self, hpos]⟩

/-! CENTER. -/

theorem softRange_contains_zero (c : Config) (a : Axis) : c.softMin.get a ≤ 0 ∧ 0 ≤ c.softMax.get a := by
  cases a
  · exact ⟨c.panRange.2.1, c.panRange.2.2.1⟩
  · exact ⟨c.tiltRange.2.1, c.tiltRange.2.2.1⟩

/-- The request of CENTER is never the one whose bound is drawn: the soft range ends before `2^31` (R9). -/
theorem neg_pos_ne_i32Min {c : Config} {a : Axis} {p : Int} (hp : p ≤ c.softMax.get a) : -p ≠ i32Min := by
  have hmax : c.softMax.get a < i32Max := by
    cases a
    · exact c.panRange.2.2.2.1
    · exact c.tiltRange.2.2.2.1
  simp only [i32Max, i32Min] at *
  omega

/-- One move of CENTER that no switch stops ends at 0, having taken one answer per step. -/
theorem MoveDone.centers {a : Axis} {k : Nat} {r : Int} {s t : State} (h : MoveDone a (-s.pos.get a) k s r t)
    (hp : s.cfg.softMin.get a ≤ s.pos.get a ∧ s.pos.get a ≤ s.cfg.softMax.get a)
    (hans : ∀ i, i < (s.pos.get a).natAbs → s.answer i = true) :
    t.pos.get a = 0 ∧ ∀ i, t.answer i = s.answer (i + (s.pos.get a).natAbs) := by
  have hmin := neg_pos_ne_i32Min hp.2
  obtain ⟨hlo, hhi⟩ := softRange_contains_zero s.cfg a
  have hzero : s.pos.get a + r = 0 := by
    rw [h.pos_of_unobstructed hmin hp (by simpa using hans), add_neg_cancel, min_eq_right hhi, max_eq_right hlo]
  have hk : k = (s.pos.get a).natAbs := by
    rw [← h.natAbs_result]
    omega
  refine ⟨h.pos_self.trans hzero, fun i => ?_⟩
  rw [h.answer i, boundOf_of_ne s hmin, Int.natAbs_neg, hk, if_neg (lt_irrefl _)]

/-- The two moves of CENTER, when no switch stops either. -/
theorem pos_zero_of_centers {k j : Nat} {r q : Int} {s u t : State} (hpan : MoveDone .pan (-s.pos.pan) k s r u)
    (htilt : MoveDone .tilt (-s.pos.tilt) j u q t) (hsoft : InSoftRange s)
    (hans : ∀ i, i < s.pos.pan.natAbs + s.pos.tilt.natAbs → s.answer i = true) : t.pos = ⟨0, 0⟩ := by
  have htiltPos : u.pos.get .tilt = s.pos.tilt := hpan.pos_other
  obtain ⟨hzero, hansw⟩ := MoveDone.centers hpan (hsoft .pan) fun i hi => hans i (Nat.lt_add_right _ hi)
  rw [← htiltPos] at htilt hans
  obtain ⟨hzero', -⟩ := MoveDone.centers htilt (by rw [hpan.cfg, htiltPos]; exact hsoft .tilt) fun i hi => by
    rw [hansw i]
    exact hans _ (by rw [Nat.add_comm]; exact Nat.add_lt_add_left hi _)
  refine PerAxis.ext_get _ _ fun a => ?_
  cases a
  · exact htilt.pos_other.trans hzero
  · exact hzero'

/-- The two moves of CENTER, and the line. -/
theorem center_done (s : State) : ∃ k j r q t, MoveDone .pan (-s.pos.pan) k s r (moveAxis .pan (-s.pos.pan) s).2 ∧
    MoveDone .tilt (-s.pos.tilt) j (moveAxis .pan (-s.pos.pan) s).2 q t ∧
    exec .center s = .next (t.txLine (ascii "CENTERED")) := by
  obtain ⟨k, hpan⟩ := moveAxis_done .pan (-s.pos.pan) s
  obtain ⟨j, htilt⟩ := moveAxis_done .tilt (-s.pos.tilt) (moveAxis .pan (-s.pos.pan) s).2
  have hpos : (moveAxis .pan (-s.pos.pan) s).2.pos.get .tilt = s.pos.tilt := hpan.pos_other
  refine ⟨k, j, _, _, _, hpan, htilt, ?_⟩
  change Host.Outcome.next ((moveAxis .tilt (-(moveAxis .pan (-s.pos.pan) s).2.pos.get .tilt)
    (moveAxis .pan (-s.pos.pan) s).2).2.txLine (ascii "CENTERED")) = _
  rw [hpos]

/-- Settles O35: two moves of `MoveDone`, the second from where the first ended, then one line. -/
theorem centerCompletes : Obligations.CenterCompletes := by
  intro s hr hsoft
  obtain ⟨k, j, r, q, t, hpan, htilt, hexec⟩ := center_done s
  generalize (moveAxis .pan (-s.pos.pan) s).2 = u at hpan htilt ⊢
  have htiltPos : u.pos.get .tilt = s.pos.tilt := hpan.pos_other
  have hpanRun := hpan.run
  have htiltRun := htilt.run
  have hpanMin : -s.pos.pan ≠ i32Min := neg_pos_ne_i32Min (hsoft .pan).2
  have htiltMin : -s.pos.tilt ≠ i32Min := neg_pos_ne_i32Min (hsoft .tilt).2
  rw [boundOf_of_ne s hpanMin, Int.natAbs_neg] at hpanRun
  rw [boundOf_of_ne u htiltMin, Int.natAbs_neg, hpan.cfg, htiltPos] at htiltRun
  have hru : u.ready = true := (hpan.mailbox hr).1.trans hr
  have hrt : t.ready = true := (htilt.mailbox hru).1.trans hru
  have hpanEnd : t.pos.get .pan = s.pos.pan + r := htilt.pos_other.trans hpan.pos_self
  have htiltEnd : t.pos.get .tilt = s.pos.tilt + q := by rw [htilt.pos_self, htiltPos]
  refine ⟨k, j, u, _, rfl, hexec, ?_, hpanRun, htiltRun, ?_, ?_, fun hans => ?_, ?_, ?_, ?_, ?_, fun a => ⟨?_, ?_⟩⟩
  · rw [State.mainTrace_txLine, htilt.events, hpan.events, htilt.cfg, hpan.cfg]
  · rw [State.txLine_pos, ← hpan.result]
    exact hpanEnd
  · rw [State.txLine_pos, ← htilt.result]
    exact htiltEnd
  · rw [State.txLine_pos]
    exact pos_zero_of_centers hpan htilt hsoft hans
  · exact ((hpan.mailboxKept hr).trans (htilt.mailboxKept hru)).trans (State.txLine_mailboxKept _ hrt)
  · exact ⟨by simp [htilt.mphase, hpan.mphase], by simp [htilt.susp, hpan.susp], by simp [htilt.cfg, hpan.cfg]⟩
  · rw [State.txLine_homed, htilt.homed, hpan.homed]
  · rw [State.txLine_hphase, htilt.hphase, hpan.hphase]
  · rw [State.txLine_stepOut]
    cases a
    · exact htilt.stepOut_other ▸ hpan.stepOut_self
    · exact hpan.stepOut_other ▸ htilt.stepOut_self
  · rw [State.txLine_dirOut]
    cases a
    · exact htilt.dirOut_other.trans (hpan.dirOut_self.trans (by simp only [neg_eq_zero]; rfl))
    · have hdir : u.dirOut.get .tilt = s.dirOut.get .tilt := hpan.dirOut_other
      rw [htilt.dirOut_self, hpan.cfg, hdir]
      simp only [neg_eq_zero]
      rfl

/-- Settles O36: both moves are by 0, so CENTER is its one line. -/
theorem centerAtOriginOnlyResponds : Obligations.CenterAtOriginOnlyResponds := by
  intro s hr hpos
  have hexec : exec .center s = .next (s.txLine (ascii "CENTERED")) := by
    simp [exec, execCenter, hpos, moveAxis_zero]
  exact exec_responds_of_eq_txLine hexec hr

end Sys2Proof.Machine
end

section
/-!
PROOFS. What a homing meets and what it leaves (42_homing.md R212 to R222): the pin answers decide how a call of `home`
or a slice of its re-approach ends, and `HomingEffect` says what either has done by then.
-/

namespace Sys2Proof.Machine

/-! The answers decide. -/

theorem SeekFinds.unique {s : State} {a : Axis} {o k j : Nat} (h : SeekFinds s a o k) (g : SeekFinds s a o j) :
    k = j := by
  obtain ⟨hreads, hhit, -⟩ := h
  obtain ⟨greads, ghit, -⟩ := g
  rcases Nat.lt_trichotomy k j with hlt | rfl | hlt
  · simp [greads k hlt] at hhit
  · rfl
  · simp [hreads j hlt] at ghit

theorem SeekFinds.not_seekFails {s : State} {a : Axis} {o k : Nat} (h : SeekFinds s a o k) : ¬SeekFails s a o := by
  obtain ⟨-, hhit, hlimit⟩ := h
  rintro ⟨hreads, hlast⟩
  obtain hlt | ⟨rfl, htie⟩ := hlimit
  · simp [hreads k hlt] at hhit
  · simp [hhit, htie] at hlast

theorem ReapproachEnds.unique {s : State} {o m j : Nat} (h : ReapproachEnds s o m) (g : ReapproachEnds s o j) :
    m = j := by
  obtain ⟨hreads, hhit, -⟩ := h
  obtain ⟨greads, ghit, -⟩ := g
  rcases Nat.lt_trichotomy m j with hlt | rfl | hlt
  · simp [greads m hlt] at hhit
  · rfl
  · simp [hreads j hlt] at ghit

theorem ReapproachEnds.not_goesOn {s : State} {o m : Nat} (h : ReapproachEnds s o m) : ¬ReapproachGoesOn s o := by
  obtain ⟨-, hhit, hlt⟩ := h
  intro hon
  simp [hon m hlt] at hhit

/-- `t` stands `n` pin answers after `s`. -/
structure Later (n : Nat) (s t : State) : Prop where
  cfg : t.cfg = s.cfg
  pins : t.env.pins = s.env.pins.drop n
  answer : ∀ i, t.answer i = s.answer (n + i)

namespace Later

variable {n : Nat} {s t : State}

theorem trans {m : Nat} {u : State} (h : Later n s t) (g : Later m t u) : Later (n + m) s u where
  cfg := g.cfg.trans h.cfg
  pins := by rw [g.pins, h.pins, List.drop_drop]
  answer i := by rw [g.answer, h.answer, Nat.add_assoc]

theorem answer_add (h : Later n s t) (o i : Nat) : t.answer (o + i) = s.answer (n + o + i) := by
  rw [h.answer, Nat.add_assoc]

theorem reapproachReads (h : Later n s t) (o : Nat) : reapproachReads t o = reapproachReads s (n + o) := by
  rw [Machine.reapproachReads, Machine.reapproachReads, h.pins, List.length_drop, Nat.sub_sub]

theorem seekFinds {a : Axis} {o k : Nat} (h : Later n s t) (hs : SeekFinds s a (n + o) k) : SeekFinds t a o k := by
  unfold SeekFinds at *
  simpa only [h.answer_add, h.cfg] using hs

theorem seekFails {a : Axis} {o : Nat} (h : Later n s t) (hs : SeekFails s a (n + o)) : SeekFails t a o := by
  unfold SeekFails at *
  simpa only [h.answer_add, h.cfg] using hs

theorem reapproachEnds {o m : Nat} (h : Later n s t) (hs : ReapproachEnds s (n + o) m) : ReapproachEnds t o m := by
  unfold ReapproachEnds at *
  simpa only [h.answer_add, h.reapproachReads] using hs

theorem reapproachGoesOn {o : Nat} (h : Later n s t) (hs : ReapproachGoesOn s (n + o)) : ReapproachGoesOn t o := by
  unfold ReapproachGoesOn at *
  simpa only [h.answer_add, h.reapproachReads] using hs

theorem homeReturns {a : Axis} {ok : Bool} {m : Nat} {es : List Event} (h : Later n s t)
    (hs : HomeReturns s a n ok m es) : HomeReturns t a 0 ok m es := by
  cases ok with
  | true =>
    obtain ⟨k, j, hfinds, hends, hm, hes⟩ := hs
    refine ⟨k, j, h.seekFinds hfinds, h.reapproachEnds ?_, hm, by rw [hes, h.cfg]⟩
    rwa [Nat.zero_add]
  | false =>
    obtain ⟨hfails, hm, hes⟩ := hs
    exact ⟨h.seekFails hfails, by rw [hm, h.cfg], by rw [hes, h.cfg, h.answer_add, Nat.add_zero]⟩

end Later

/-! What a part of homing has done. -/

/-- The registers of one axis that homing writes, with the latch of its DIR. -/
structure AxisRegs where
  pos : Int
  homed : Bit
  hphase : HPhase
  dirOut : Bit

/-- A part of homing on `a`: the registers of the axis hold `x`, `n` answers were taken, MAIN's events are `es`, and
nothing else but the latch of STEP, the loop registers and ENV's inputs may differ. -/
structure HomingEffect (a : Axis) (x : AxisRegs) (n : Nat) (es : List Event) (s t : State) : Prop where
  pos : t.pos = s.pos.set a x.pos
  homed : t.homed = s.homed.set a x.homed
  hphase : t.hphase = s.hphase.set a x.hphase
  dirOut : t.dirOut = s.dirOut.set a x.dirOut
  stepOut : t.stepOut = s.stepOut ∨ t.stepOut = s.stepOut.set a false
  mphase : t.mphase = s.mphase
  susp : t.susp = s.susp
  mailbox : s.ready = true → t.ready = s.ready ∧ t.buf = s.buf ∧ t.cur = s.cur
  events : t.mainTrace = s.mainTrace ++ es
  later : Later n s t

/-- The registers when `home(a)`, called at `s`, stands at `r` (R214, R217, R219). -/
def statusRegs (s : State) (a : Axis) (r : HomeStatus) : AxisRegs where
  pos := if r = .ok then s.cfg.homeRef.get a else s.pos.get a
  homed := decide (r = .ok)
  hphase := if r = .running then .reapproachingSlow else .idle
  dirOut := dirLevel (s.cfg.polarity.get a) .minus

/-- The registers when a slice of the re-approach at `s` stands at `r` (R217, R219). -/
def sliceRegs (s : State) (a : Axis) (r : HomeStatus) : AxisRegs where
  pos := if r = .ok then s.cfg.homeRef.get a else s.pos.get a
  homed := if r = .ok then true else s.homed.get a
  hphase := if r = .ok then .idle else s.hphase.get a
  dirOut := s.dirOut.get a

/-- The status of a call that has returned. -/
def returnStatus (ok : Bool) : HomeStatus := if ok then .ok else .err

/-- The registers after a call that has returned. -/
theorem statusRegs_returned (s : State) (a : Axis) (ok : Bool) : statusRegs s a (returnStatus ok) =
    ⟨if ok then s.cfg.homeRef.get a else s.pos.get a, ok, .idle, dirLevel (s.cfg.polarity.get a) .minus⟩ := by
  cases ok <;> rfl

theorem PerAxis.set_ite_get {α : Type} (p : PerAxis α) (a : Axis) (v : α) (c : Prop) [Decidable c] :
    p.set a (if c then v else p.get a) = if c then p.set a v else p := by
  split
  · rfl
  · exact PerAxis.set_get_self p a

theorem HomeOutcome.effect {a : Axis} {s t : State} {r : HomeStatus} {n : Nat} {es : List Event}
    (h : HomeOutcome a s r t) (hev : t.mainTrace = s.mainTrace ++ es) (hpins : t.env.pins = s.env.pins.drop n)
    (hans : ∀ i, t.answer i = s.answer (i + n)) : HomingEffect a (statusRegs s a r) n es s t where
  pos := h.pos.trans (PerAxis.set_ite_get _ _ _ _).symm
  homed := h.homed
  hphase := h.hphase
  dirOut := h.dirOut
  stepOut := h.stepOut
  mphase := h.mphase
  susp := h.susp
  mailbox := h.mailbox
  events := hev
  later := ⟨h.cfg, hpins, fun i => by rw [hans, Nat.add_comm]⟩

theorem ReapproachOutcome.effect {a : Axis} {s t : State} {r : HomeStatus} {n : Nat} {es : List Event}
    (h : ReapproachOutcome a s r t) (hev : t.mainTrace = s.mainTrace ++ es) (hpins : t.env.pins = s.env.pins.drop n)
    (hans : ∀ i, t.answer i = s.answer (i + n)) : HomingEffect a (sliceRegs s a r) n es s t where
  pos := h.pos.trans (PerAxis.set_ite_get _ _ _ _).symm
  homed := h.homed.trans (PerAxis.set_ite_get _ _ _ _).symm
  hphase := h.hphase.trans (PerAxis.set_ite_get _ _ _ _).symm
  dirOut := h.dirOut.trans (PerAxis.set_get_self _ _).symm
  stepOut := h.stepOut
  mphase := h.mphase
  susp := h.susp
  mailbox := h.mailbox
  events := hev
  later := ⟨h.cfg, hpins, fun i => by rw [hans, Nat.add_comm]⟩

/-- A call of `home(a)` ends as the answers say, and has done what `HomeReturns` lists (R221). -/
theorem home_of_returns {s : State} {a : Axis} {ok : Bool} {n : Nat} {es : List Event}
    (h : HomeReturns s a 0 ok n es) : (home a s).1 = returnStatus ok ∧
      HomingEffect a (statusRegs s a (returnStatus ok)) n es s (home a s).2 := by
  have hout := home_spec a s
  generalize (home a s).1 = r at *
  cases ok with
  | true =>
    obtain ⟨k, m, hfinds, hends, rfl, rfl⟩ := h
    rw [Nat.zero_add] at hends
    cases r with
    | ok =>
      obtain ⟨k', m', hfinds', hends', hev, hpins, hans⟩ := hout.onOk rfl
      obtain rfl := hfinds.unique hfinds'
      obtain rfl := hends.unique hends'
      exact ⟨rfl, hout.effect (by rw [hev, List.append_assoc]) hpins hans⟩
    | err => exact absurd (hout.onErr rfl).1 hfinds.not_seekFails
    | running =>
      obtain ⟨k', hfinds', hon, -⟩ := hout.onRunning rfl
      obtain rfl := hfinds.unique hfinds'
      exact absurd hon hends.not_goesOn
  | false =>
    obtain ⟨hfails, rfl, rfl⟩ := h
    cases r with
    | ok =>
      obtain ⟨k, m, hfinds, -⟩ := hout.onOk rfl
      exact absurd hfails hfinds.not_seekFails
    | err =>
      obtain ⟨-, hev, hpins, hans⟩ := hout.onErr rfl
      exact ⟨rfl, hout.effect (by rw [hev, Nat.zero_add]) hpins hans⟩
    | running =>
      obtain ⟨k, hfinds, -⟩ := hout.onRunning rfl
      exact absurd hfails hfinds.not_seekFails

/-- A call of `home(a)` whose re-approach does not meet the switch in this step (R218). -/
theorem home_of_goesOn {s : State} {a : Axis} {k : Nat} (hfinds : SeekFinds s a 0 k)
    (hon : ReapproachGoesOn s (k + 1)) : (home a s).1 = .running ∧
      HomingEffect a (statusRegs s a .running) (k + 1 + reapproachReads s (k + 1))
        (homeEvents s.cfg a k (reapproachReads s (k + 1))) s (home a s).2 := by
  have hout := home_spec a s
  generalize (home a s).1 = r at *
  cases r with
  | ok =>
    obtain ⟨k', m, hfinds', hends, -⟩ := hout.onOk rfl
    obtain rfl := hfinds.unique hfinds'
    exact absurd hon hends.not_goesOn
  | err => exact absurd (hout.onErr rfl).1 hfinds.not_seekFails
  | running =>
    obtain ⟨k', hfinds', -, hev, hpins, hans⟩ := hout.onRunning rfl
    obtain rfl := hfinds.unique hfinds'
    exact ⟨rfl, hout.effect hev hpins hans⟩

/-- A slice of the re-approach in which the switch re-asserts (R217, R219). -/
theorem reapproach_of_ends {s : State} (a : Axis) {m : Nat} (h : ReapproachEnds s 0 m) :
    (reapproach a s).1 = .ok ∧ HomingEffect a (sliceRegs s a .ok) (m + 1)
      (readRounds (.neg a) true (slowEvents a) m ++ [.pinRead (.neg a) false]) s (reapproach a s).2 := by
  have hout := reapproach_spec a s
  generalize (reapproach a s).1 = r at *
  cases r with
  | ok =>
    obtain ⟨m', hends', hev, hpins, hans⟩ := hout.onOk rfl
    obtain rfl := h.unique hends'
    exact ⟨rfl, hout.effect (by rw [hev, List.append_assoc]) hpins hans⟩
  | err => exact absurd rfl hout.notErr
  | running => exact absurd (hout.onRunning rfl).1 h.not_goesOn

/-- A slice of the re-approach in which it does not (R218). -/
theorem reapproach_of_goesOn {s : State} (a : Axis) (h : ReapproachGoesOn s 0) :
    (reapproach a s).1 = .running ∧ HomingEffect a (sliceRegs s a .running) (reapproachReads s 0)
      (readRounds (.neg a) true (slowEvents a) (reapproachReads s 0)) s (reapproach a s).2 := by
  have hout := reapproach_spec a s
  generalize (reapproach a s).1 = r at *
  cases r with
  | ok =>
    obtain ⟨m, hends, -⟩ := hout.onOk rfl
    exact absurd h hends.not_goesOn
  | err => exact absurd rfl hout.notErr
  | running =>
    obtain ⟨-, hev, hpins, hans⟩ := hout.onRunning rfl
    exact ⟨rfl, hout.effect hev hpins hans⟩

/-! Lines before and after. -/

theorem later_txLine (s : State) (text : List Byte) : Later 0 s (s.txLine text) := by
  constructor <;> simp

namespace HomingEffect

variable {a : Axis} {x : AxisRegs} {n : Nat} {es : List Event} {s t : State}

theorem cfg (h : HomingEffect a x n es s t) : t.cfg = s.cfg := h.later.cfg

theorem ready (h : HomingEffect a x n es s t) (hr : s.ready = true) : t.ready = true := (h.mailbox hr).1.trans hr

theorem mailboxKept (h : HomingEffect a x n es s t) (hr : s.ready = true) : MailboxKept s t := by
  obtain ⟨hready, hbuf, hcur⟩ := h.mailbox hr
  exact ⟨fun i => congrArg (Memory.read · i) hbuf, hcur, hready⟩

/-- A line after the part. -/
theorem txLine (h : HomingEffect a x n es s t) (text : List Byte) :
    HomingEffect a x n (es ++ lineEvents s.cfg text) s (t.txLine text) where
  pos := by rw [State.txLine_pos, h.pos]
  homed := by rw [State.txLine_homed, h.homed]
  hphase := by rw [State.txLine_hphase, h.hphase]
  dirOut := by rw [State.txLine_dirOut, h.dirOut]
  stepOut := by simpa using h.stepOut
  mphase := by rw [State.txLine_mphase, h.mphase]
  susp := by rw [State.txLine_susp, h.susp]
  mailbox hr := by
    obtain ⟨hready, hbuf, hcur⟩ := h.mailbox hr
    have ht := h.ready hr
    exact ⟨(State.txLine_ready text ht).trans hready, (State.txLine_buf text ht).trans hbuf,
      (State.txLine_cur text ht).trans hcur⟩
  events := by rw [State.mainTrace_txLine, h.events, h.cfg, List.append_assoc]
  later := h.later.trans (later_txLine t text)

/-- A line before the part. -/
theorem after_txLine {text : List Byte} (h : HomingEffect a x n es (s.txLine text) t) :
    HomingEffect a x n (lineEvents s.cfg text ++ es) s t where
  pos := by rw [h.pos, State.txLine_pos]
  homed := by rw [h.homed, State.txLine_homed]
  hphase := by rw [h.hphase, State.txLine_hphase]
  dirOut := by rw [h.dirOut, State.txLine_dirOut]
  stepOut := by simpa using h.stepOut
  mphase := by rw [h.mphase, State.txLine_mphase]
  susp := by rw [h.susp, State.txLine_susp]
  mailbox hr := by
    obtain ⟨hready, hbuf, hcur⟩ := h.mailbox ((State.txLine_ready text hr).trans hr)
    exact ⟨hready.trans (State.txLine_ready text hr), hbuf.trans (State.txLine_buf text hr),
      hcur.trans (State.txLine_cur text hr)⟩
  events := by rw [h.events, State.mainTrace_txLine, List.append_assoc]
  later := Nat.zero_add n ▸ (later_txLine s text).trans h.later

/-! What the frame says of each axis. -/

theorem axisKept_other (h : HomingEffect a x n es s t) : AxisKept a.other s t := by
  refine ⟨by rw [h.pos, PerAxis.get_set_other], by rw [h.homed, PerAxis.get_set_other],
    by rw [h.hphase, PerAxis.get_set_other], ?_, by rw [h.dirOut, PerAxis.get_set_other]⟩
  obtain hs | hs := h.stepOut
  · rw [hs]
  · rw [hs, PerAxis.get_set_other]

theorem stepOut_self (h : HomingEffect a x n es s t) :
    t.stepOut.get a = false ∨ t.stepOut.get a = s.stepOut.get a := by
  obtain hs | hs := h.stepOut
  · exact .inr (by rw [hs])
  · exact .inl (by rw [hs, PerAxis.get_set_self])

theorem regs_self (h : HomingEffect a x n es s t) : t.pos.get a = x.pos ∧ t.homed.get a = x.homed ∧
    t.hphase.get a = x.hphase ∧ t.dirOut.get a = x.dirOut := by
  simp [h.pos, h.homed, h.hphase, h.dirOut]

theorem onlyHomed (h : HomingEffect a x n es s t) (hr : s.ready = true) : OnlyHomed a s t :=
  ⟨h.mailboxKept hr, h.axisKept_other, h.mphase, h.cfg, h.stepOut_self⟩

theorem latchesAfterHoming {r : HomeStatus} (h : HomingEffect a (statusRegs s a r) n es s t) :
    LatchesAfterHoming a s t := by
  obtain ⟨-, -, -, hdir⟩ := h.regs_self
  exact ⟨hdir, h.stepOut_self⟩

theorem latchesAfterPulses {r : HomeStatus} (h : HomingEffect a (sliceRegs s a r) n es s t) :
    LatchesAfterPulses a s t := by
  obtain ⟨-, -, -, hdir⟩ := h.regs_self
  exact ⟨hdir, h.stepOut_self⟩

end HomingEffect

/-! The lines of homing. -/

theorem homingLine_eq (a : Axis) : homingLine a = homingText a := by cases a <;> rfl

theorem reportHome_eq_txLine (a : Axis) (ok : Bool) (s : State) :
    reportHome a ok s = s.txLine (homeResultText a ok) := by
  cases a <;> cases ok <;> rfl

theorem statusRegs_txLine (s : State) (text : List Byte) (a : Axis) (r : HomeStatus) :
    statusRegs (s.txLine text) a r = statusRegs s a r := by
  simp [statusRegs]

/-- `home(a)` behind its announcement, when it returns (R223, R224). -/
theorem announcedHome_of_returns {s : State} {a : Axis} {ok : Bool} {n : Nat} {es : List Event}
    (h : HomeReturns s a 0 ok n es) : (home a (s.txLine (homingLine a))).1 = returnStatus ok ∧
      HomingEffect a (statusRegs s a (returnStatus ok)) n (lineEvents s.cfg (homingText a) ++ es) s
        (home a (s.txLine (homingLine a))).2 := by
  obtain ⟨hstatus, heffect⟩ := home_of_returns ((later_txLine s (homingLine a)).homeReturns h)
  rw [statusRegs_txLine] at heffect
  exact ⟨hstatus, homingLine_eq a ▸ heffect.after_txLine⟩

/-- `home(a)` behind its announcement, when it is left in its re-approach. -/
theorem announcedHome_of_goesOn {s : State} {a : Axis} {k : Nat} (hfinds : SeekFinds s a 0 k)
    (hon : ReapproachGoesOn s (k + 1)) : (home a (s.txLine (homingLine a))).1 = .running ∧
      HomingEffect a (statusRegs s a .running) (k + 1 + reapproachReads s (k + 1))
        (lineEvents s.cfg (homingText a) ++ homeEvents s.cfg a k (reapproachReads s (k + 1))) s
        (home a (s.txLine (homingLine a))).2 := by
  have hlater := later_txLine s (homingLine a)
  obtain ⟨hstatus, heffect⟩ := home_of_goesOn (hlater.seekFinds (o := 0) hfinds)
    (hlater.reapproachGoesOn (by rwa [Nat.zero_add]))
  rw [statusRegs_txLine, hlater.reapproachReads, Nat.zero_add, hlater.cfg] at heffect
  exact ⟨hstatus, homingLine_eq a ▸ heffect.after_txLine⟩

theorem afterHome_of_returned {r : HomeStatus × State} {ok : Bool} (p : Suspended) (next : Bool → State → State)
    (h : r.1 = returnStatus ok) : afterHome p next r = next ok r.2 := by
  cases ok <;> simp [afterHome, h, returnStatus]

theorem afterHome_of_running {r : HomeStatus × State} (p : Suspended) (next : Bool → State → State)
    (h : r.1 = .running) : afterHome p next r = r.2.setSusp (some p) := by
  simp [afterHome, h]

end Sys2Proof.Machine
end

section
/-!
PROOFS. HOME_PAN and HOME_TILT (42_homing.md R217 to R224), and the slices of any suspended command (R218; log 14).
-/

namespace Sys2Proof.Machine

theorem exec_homeInstr (a : Axis) (s : State) : exec (homeInstr a) s =
    .next (afterHome (suspendedHome a) (reportHome a) (home a (s.txLine (homingLine a)))) := by
  cases a <;> rfl

/-- A homing command whose `home` returns is the announced call and the result line. -/
theorem homeInstr_of_returns {s : State} {a : Axis} {ok : Bool} {n : Nat} {es : List Event}
    (h : HomeReturns s a 0 ok n es) : ∃ t, exec (homeInstr a) s = .next t ∧
      HomingEffect a (statusRegs s a (returnStatus ok)) n
        (lineEvents s.cfg (homingText a) ++ es ++ lineEvents s.cfg (homeResultText a ok)) s t := by
  obtain ⟨hstatus, heffect⟩ := announcedHome_of_returns h
  refine ⟨_, exec_homeInstr a s, ?_⟩
  rw [afterHome_of_returned _ _ hstatus, reportHome_eq_txLine]
  exact heffect.txLine _

/-- Settles O37: the registers that `home` leaves when it returns, between its two lines. -/
theorem homingCommandReturns : Obligations.HomingCommandReturns := by
  intro s a ok n es hr h
  obtain ⟨t, hexec, heffect⟩ := homeInstr_of_returns h
  rw [statusRegs_returned] at heffect
  obtain ⟨hpos, hhomed, hphase, hdir⟩ := heffect.regs_self
  refine ⟨t, hexec, ?_, hpos, hhomed, hphase, hdir, heffect.onlyHomed hr, heffect.susp⟩
  rw [heffect.events, List.append_assoc, List.append_assoc, List.append_assoc]

/-- Settles O47: the reference position of a homing that returns Ok, on the fixed configuration. -/
theorem homedPositionIsTheReference : Obligations.HomedPositionIsTheReference := by
  intro s a n es hfixed hr h
  obtain ⟨t, hexec, -, hpos, hhomed, -⟩ := homingCommandReturns s a true n es hr h
  obtain ⟨-, -, hpan, htilt⟩ := hfixed
  refine ⟨t, hexec, hhomed, hpos.trans ?_⟩
  cases a
  · exact hpan
  · exact htilt

/-- Settles O38: the call is left in its re-approach, and the command suspended there. -/
theorem homingCommandGoesOn : Obligations.HomingCommandGoesOn := by
  intro s a k hr hfinds hon
  obtain ⟨hstatus, heffect⟩ := announcedHome_of_goesOn hfinds hon
  obtain ⟨hpos, hhomed, hphase, -⟩ := heffect.regs_self
  refine ⟨_, exec_homeInstr a s, ?_⟩
  rw [afterHome_of_running _ _ hstatus]
  exact ⟨rfl, heffect.events.trans (List.append_assoc _ _ _).symm, hpos, hhomed, hphase,
    heffect.latchesAfterHoming, heffect.onlyHomed hr⟩

/-! Slices. -/

/-- A step that ends a suspended command releases the mailbox, and leaves the registers as the slice left them. -/
theorem step_of_slice {s u : State} {p : Suspended} (hr : s.ready = true) (hm : s.mphase = .exec)
    (hp : s.susp = some p) (hslice : continueCommand p s = u) (hu : u.susp = none) :
    step s = .next u.release ∧ Released s u.release := by
  have hexec : execStep s = u.release := by
    rw [execStep_of_susp hp, hslice, State.endCommand_of_none hu]
  refine ⟨(step_exec hm (State.cursorBad_of_ready hr)).trans (congrArg _ hexec), ?_⟩
  obtain hrel | ⟨-, -, hsusp, -⟩ := execStep_released hr hm
  · exact hexec ▸ hrel
  · rw [hexec, State.release_susp] at hsusp
    exact absurd hu hsusp

/-- A step that leaves a command suspended is its slice. -/
theorem step_of_suspended {s u : State} {p q : Suspended} (hr : s.ready = true) (hm : s.mphase = .exec)
    (hp : s.susp = some p) (hslice : continueCommand p s = u) (hu : u.susp = some q) : step s = .next u := by
  rw [step_exec hm (State.cursorBad_of_ready hr), execStep_of_susp hp, hslice, State.endCommand_of_some hu]

theorem suspendedHome_axis (a : Axis) : (suspendedHome a).axis = a := by cases a <;> rfl

theorem suspendedHome_rest (a : Axis) : (suspendedHome a).rest = reportHome a := by cases a <;> rfl

/-- Settles O39: the slice finds the switch, the result line follows, and the mailbox is released. -/
theorem suspendedHomingFinishes : Obligations.SuspendedHomingFinishes := by
  intro s a m hr hm hp hends
  obtain ⟨hstatus, hslice⟩ := reapproach_of_ends (s := s.setSusp none) a hends
  have heffect := hslice.txLine (homedText a)
  obtain ⟨hpos, hhomed, hphase, -⟩ := heffect.regs_self
  have hcont : continueCommand (suspendedHome a) s = (reapproach a (s.setSusp none)).2.txLine (homedText a) := by
    rw [continueCommand, suspendedHome_axis, suspendedHome_rest, afterHome_of_returned (ok := true) _ _ hstatus,
      reportHome_eq_txLine]
    rfl
  obtain ⟨hstep, hrel⟩ := step_of_slice hr hm hp hcont heffect.susp
  refine ⟨_, hstep, hrel, ?_⟩
  simp only [State.release_pos, State.release_homed, State.release_hphase, State.release_mainTrace,
    LatchesAfterPulses, AxisKept, State.release_stepOut, State.release_dirOut]
  refine ⟨hpos, hhomed, hphase, heffect.latchesAfterPulses, heffect.axisKept_other, ?_⟩
  rw [heffect.events, List.append_assoc, List.append_assoc, List.append_assoc]
  rfl

/-- Settles O40: the slice does not find the switch, and the command is suspended where it was. -/
theorem suspendedReapproachGoesOn : Obligations.SuspendedReapproachGoesOn := by
  intro s p hr hm hp hon
  obtain ⟨hstatus, heffect⟩ := reapproach_of_goesOn (s := s.setSusp none) p.axis hon
  have hcont : continueCommand p s = (reapproach p.axis (s.setSusp none)).2.setSusp (some p) :=
    afterHome_of_running p p.rest hstatus
  refine ⟨_, step_of_suspended hr hm hp hcont rfl, heffect.mphase.trans hm, hp.symm, heffect.mailboxKept hr, ?_, ?_, ?_,
    heffect.latchesAfterPulses, heffect.axisKept_other, heffect.cfg, heffect.events⟩
  · exact heffect.pos.trans (PerAxis.set_get_self _ _)
  · exact heffect.homed.trans (PerAxis.set_get_self _ _)
  · exact heffect.hphase.trans (PerAxis.set_get_self _ _)

end Sys2Proof.Machine
end

section
/-!
PROOFS. HOME_ALL (42_homing.md R225; decision D25): pan, then tilt unless the policy stops, whole or in slices (log 14).
-/

namespace Sys2Proof.Machine

/-! Two parts, one on each axis. -/

/-- A part of homing on pan that left its registers at `x`, then one on tilt that left its own at `y`. -/
structure BothHomed (x y : AxisRegs) (es : List Event) (s t : State) : Prop where
  pos : t.pos = ⟨x.pos, y.pos⟩
  homed : t.homed = ⟨x.homed, y.homed⟩
  hphase : t.hphase = ⟨x.hphase, y.hphase⟩
  dirOut : t.dirOut = ⟨x.dirOut, y.dirOut⟩
  stepOut : ∀ a, t.stepOut.get a = false ∨ t.stepOut.get a = s.stepOut.get a
  mailbox : s.ready = true → MailboxKept s t
  mphase : t.mphase = s.mphase
  susp : t.susp = s.susp
  cfg : t.cfg = s.cfg
  events : t.mainTrace = s.mainTrace ++ es

theorem PerAxis.set_pan_tilt {α : Type} (p : PerAxis α) (v w : α) : (p.set .pan v).set .tilt w = ⟨v, w⟩ := rfl

theorem HomingEffect.both {x y : AxisRegs} {n m : Nat} {es fs : List Event} {s t u : State}
    (h : HomingEffect .pan x n es s t) (g : HomingEffect .tilt y m fs t u) : BothHomed x y (es ++ fs) s u where
  pos := by rw [g.pos, h.pos, PerAxis.set_pan_tilt]
  homed := by rw [g.homed, h.homed, PerAxis.set_pan_tilt]
  hphase := by rw [g.hphase, h.hphase, PerAxis.set_pan_tilt]
  dirOut := by rw [g.dirOut, h.dirOut, PerAxis.set_pan_tilt]
  stepOut a := by
    obtain ⟨-, -, -, hpan, -⟩ := g.axisKept_other
    obtain ⟨-, -, -, htilt, -⟩ := h.axisKept_other
    cases a
    · exact hpan ▸ h.stepOut_self
    · exact htilt ▸ g.stepOut_self
  mailbox hr := (h.mailboxKept hr).trans (g.mailboxKept (h.ready hr))
  mphase := g.mphase.trans h.mphase
  susp := g.susp.trans h.susp
  cfg := g.cfg.trans h.cfg
  events := by rw [g.events, h.events, List.append_assoc]

/-- What a part on pan leaves of tilt is what it found. -/
theorem HomingEffect.statusRegs_tilt {x : AxisRegs} {n : Nat} {es : List Event} {s t : State}
    (h : HomingEffect .pan x n es s t) (r : HomeStatus) : statusRegs t .tilt r = statusRegs s .tilt r := by
  obtain ⟨hpos, -⟩ := h.axisKept_other
  rw [statusRegs, statusRegs, h.cfg, show t.pos.get .tilt = s.pos.get .tilt from hpos]

/-! The parts of HOME_ALL. -/

/-- The last line of HOME_ALL, if the policy sends it. -/
def allHomedEvents (c : Config) (panOk tiltOk : Bool) : List Event :=
  if c.homeAllPolicy = .attemptBothAlwaysReport ∨ (panOk = true ∧ tiltOk = true) then lineEvents c (ascii "ALL HOMED")
  else []

theorem HomingEffect.homeAllEnd {a : Axis} {x : AxisRegs} {n : Nat} {es : List Event} {s t : State}
    (h : HomingEffect a x n es s t) (panOk tiltOk : Bool) :
    HomingEffect a x n (es ++ lineEvents s.cfg (homeResultText .tilt tiltOk) ++ allHomedEvents s.cfg panOk tiltOk) s
      (homeAllEnd panOk tiltOk t) := by
  have hline := h.txLine (homeResultText .tilt tiltOk)
  unfold Machine.homeAllEnd allHomedEvents
  dsimp only
  rw [reportHome_eq_txLine, hline.cfg]
  simp only [Bool.and_eq_true]
  split
  · exact hline.txLine _
  · rwa [List.append_nil]

/-- The tilt half, when tilt's homing returns. -/
theorem homeAllTilt_of_returns {s : State} {tiltOk : Bool} {n : Nat} {es : List Event} (panOk : Bool)
    (h : HomeReturns s .tilt 0 tiltOk n es) :
    HomingEffect .tilt (statusRegs s .tilt (returnStatus tiltOk)) n
      (lineEvents s.cfg (homingText .tilt) ++ es ++ lineEvents s.cfg (homeResultText .tilt tiltOk) ++
        allHomedEvents s.cfg panOk tiltOk) s (homeAllTilt panOk s) := by
  obtain ⟨hstatus, heffect⟩ := announcedHome_of_returns h
  rw [homeAllTilt, afterHome_of_returned _ _ hstatus]
  exact heffect.homeAllEnd panOk tiltOk

/-- The tilt half, when it is left in tilt's re-approach. -/
theorem homeAllTilt_of_goesOn {s : State} {k : Nat} (panOk : Bool) (hfinds : SeekFinds s .tilt 0 k)
    (hon : ReapproachGoesOn s (k + 1)) : ∃ u, homeAllTilt panOk s = u.setSusp (some (.homeAllTilt panOk)) ∧
      HomingEffect .tilt (statusRegs s .tilt .running) (k + 1 + reapproachReads s (k + 1))
        (lineEvents s.cfg (homingText .tilt) ++ homeEvents s.cfg .tilt k (reapproachReads s (k + 1))) s u := by
  obtain ⟨hstatus, heffect⟩ := announcedHome_of_goesOn hfinds hon
  exact ⟨_, afterHome_of_running _ _ hstatus, heffect⟩

theorem homeAllAfterPan_of_stop {s : State} {panOk : Bool}
    (h : panOk = false ∧ s.cfg.homeAllPolicy = .stopAtFirstFailure) :
    homeAllAfterPan panOk s = s.txLine (homeResultText .pan panOk) := by
  rw [homeAllAfterPan, reportHome_eq_txLine, State.txLine_cfg, if_pos h]

theorem homeAllAfterPan_of_goOn {s : State} {panOk : Bool}
    (h : ¬(panOk = false ∧ s.cfg.homeAllPolicy = .stopAtFirstFailure)) :
    homeAllAfterPan panOk s = homeAllTilt panOk (s.txLine (homeResultText .pan panOk)) := by
  rw [homeAllAfterPan, reportHome_eq_txLine, State.txLine_cfg, if_neg h]

theorem exec_homeAll (s : State) : exec .homeAll s =
    .next (afterHome .homeAllPan homeAllAfterPan (home .pan (s.txLine (homingLine .pan)))) := rfl

/-- HOME_ALL after a homing of pan that returns: pan's part with its result line, and what follows it. -/
theorem exec_homeAll_of_returns {s : State} {panOk : Bool} {n : Nat} {es : List Event}
    (h : HomeReturns s .pan 0 panOk n es) : ∃ u, exec .homeAll s = .next (homeAllAfterPan panOk u) ∧ u.cfg = s.cfg ∧
      HomingEffect .pan (statusRegs s .pan (returnStatus panOk)) n
        (lineEvents s.cfg (homingText .pan) ++ es ++ lineEvents s.cfg (homeResultText .pan panOk)) s
        (u.txLine (homeResultText .pan panOk)) := by
  obtain ⟨hstatus, heffect⟩ := announcedHome_of_returns h
  exact ⟨_, (exec_homeAll s).trans (congrArg _ (afterHome_of_returned _ _ hstatus)), heffect.cfg, heffect.txLine _⟩

/-- Settles O41: pan's part alone when the policy stops, else pan's part and the tilt half. -/
theorem homeAllFollowsItsPolicy : Obligations.HomeAllFollowsItsPolicy := by
  intro s panOk tiltOk n n' es es' hr hpan
  obtain ⟨u, hexec, hcfg, hpanEffect⟩ := exec_homeAll_of_returns hpan
  refine ⟨fun hstop => ?_, fun hgo htilt => ?_⟩
  · rw [homeAllAfterPan_of_stop (by rwa [hcfg])] at hexec
    obtain ⟨rfl, -⟩ := hstop
    obtain ⟨hpos, hhomed, hphase, -⟩ := hpanEffect.regs_self
    refine ⟨_, hexec, ?_, hpos, hhomed, hphase, hpanEffect.latchesAfterHoming, hpanEffect.onlyHomed hr, hpanEffect.susp⟩
    rw [hpanEffect.events, List.append_assoc, List.append_assoc, List.append_assoc]
    rfl
  · rw [homeAllAfterPan_of_goOn (by rwa [hcfg])] at hexec
    have htiltEffect := homeAllTilt_of_returns panOk (hpanEffect.later.homeReturns htilt)
    rw [hpanEffect.statusRegs_tilt, hpanEffect.cfg] at htiltEffect
    have hboth := hpanEffect.both htiltEffect
    rw [statusRegs_returned, statusRegs_returned] at hboth
    refine ⟨_, hexec, ?_, hboth.pos, hboth.homed, hboth.hphase, fun a => ⟨?_, hboth.stepOut a⟩, hboth.mailbox hr,
      hboth.mphase, hboth.susp, hboth.cfg⟩
    · simp only [hboth.events, List.append_assoc, allHomedEvents]
    · rw [hboth.dirOut]
      cases a <;> rfl

/-- Settles O42: pan's call is left in its re-approach, and the command suspended there. -/
theorem homeAllGoesOnInPan : Obligations.HomeAllGoesOnInPan := by
  intro s k hr hfinds hon
  obtain ⟨hstatus, heffect⟩ := announcedHome_of_goesOn hfinds hon
  obtain ⟨-, hhomed, hphase, -⟩ := heffect.regs_self
  refine ⟨_, (exec_homeAll s).trans (congrArg _ (afterHome_of_running _ _ hstatus)), rfl, ?_, ?_, hhomed, hphase,
    heffect.latchesAfterHoming, heffect.onlyHomed hr⟩
  · exact heffect.events.trans (List.append_assoc _ _ _).symm
  · exact heffect.pos.trans (PerAxis.set_get_self _ _)

/-- Settles O43: pan's part with its line, then tilt's call, left in its re-approach. -/
theorem homeAllGoesOnInTilt : Obligations.HomeAllGoesOnInTilt := by
  intro s panOk n k es hr hpan hgo hfinds hon
  obtain ⟨u, hexec, hcfg, hpanEffect⟩ := exec_homeAll_of_returns hpan
  rw [homeAllAfterPan_of_goOn (by rwa [hcfg])] at hexec
  obtain ⟨w, hw, htiltEffect⟩ := homeAllTilt_of_goesOn panOk (hpanEffect.later.seekFinds (o := 0) hfinds)
    (hpanEffect.later.reapproachGoesOn hon)
  rw [hpanEffect.statusRegs_tilt, hpanEffect.cfg, hpanEffect.later.reapproachReads] at htiltEffect
  have hboth := hpanEffect.both htiltEffect
  rw [statusRegs_returned] at hboth
  rw [hw] at hexec
  refine ⟨_, hexec, rfl, ?_, hboth.pos, hboth.homed, hboth.hphase, fun a => ⟨?_, hboth.stepOut a⟩, hboth.mailbox hr,
    hboth.mphase, hboth.cfg⟩
  · simp only [State.mainTrace_setSusp, hboth.events, List.append_assoc]
  · rw [State.setSusp_dirOut, hboth.dirOut]
    cases a <;> rfl

/-! Slices of HOME_ALL. -/

/-- Settles O44: the slice finds tilt's switch, and the end of HOME_ALL follows. -/
theorem suspendedHomeAllFinishesInTilt : Obligations.SuspendedHomeAllFinishesInTilt := by
  intro s m panOk hr hm hends hp
  obtain ⟨hstatus, hslice⟩ := reapproach_of_ends (s := s.setSusp none) .tilt hends
  have heffect := hslice.homeAllEnd panOk true
  obtain ⟨hpos, hhomed, hphase, -⟩ := heffect.regs_self
  have hcont : continueCommand (.homeAllTilt panOk) s =
      homeAllEnd panOk true (reapproach .tilt (s.setSusp none)).2 :=
    afterHome_of_returned (ok := true) _ _ hstatus
  obtain ⟨hstep, hrel⟩ := step_of_slice hr hm hp hcont heffect.susp
  refine ⟨_, hstep, hrel, ?_⟩
  simp only [State.release_pos, State.release_homed, State.release_hphase, State.release_mainTrace,
    LatchesAfterPulses, AxisKept, State.release_stepOut, State.release_dirOut]
  refine ⟨hpos, hhomed, hphase, heffect.latchesAfterPulses, heffect.axisKept_other, ?_⟩
  simp only [heffect.events, List.append_assoc, allHomedEvents, and_true]
  rfl

/-- HOME_ALL after a slice that finds pan's switch: pan's part with its line, and the tilt half to follow. -/
theorem continueCommand_homeAllPan {s : State} {m : Nat} (hends : ReapproachEnds s 0 m) :
    ∃ t, continueCommand .homeAllPan s = homeAllTilt true t ∧
      HomingEffect .pan (sliceRegs (s.setSusp none) .pan .ok) (m + 1)
        (readRounds (.neg .pan) true (slowEvents .pan) m ++ [.pinRead (.neg .pan) false] ++
          lineEvents s.cfg (homedText .pan)) (s.setSusp none) t := by
  obtain ⟨hstatus, hslice⟩ := reapproach_of_ends (s := s.setSusp none) .pan hends
  refine ⟨_, ?_, hslice.txLine (homedText .pan)⟩
  rw [continueCommand, Suspended.axis, Suspended.rest, afterHome_of_returned (ok := true) _ _ hstatus,
    homeAllAfterPan_of_goOn (by simp)]
  rfl

/-- Settles O45: pan's slice and line, then the tilt half to its end. -/
theorem suspendedHomeAllFinishesFromPan : Obligations.SuspendedHomeAllFinishesFromPan := by
  intro s m n tiltOk es hr hm hends hp htilt
  obtain ⟨t, hcont, hpanEffect⟩ := continueCommand_homeAllPan hends
  have htiltEffect := homeAllTilt_of_returns true (hpanEffect.later.homeReturns htilt)
  rw [hpanEffect.statusRegs_tilt, hpanEffect.cfg] at htiltEffect
  have hboth := hpanEffect.both htiltEffect
  rw [statusRegs_returned] at hboth
  obtain ⟨hstep, hrel⟩ := step_of_slice hr hm hp hcont hboth.susp
  refine ⟨_, hstep, hrel, ?_⟩
  simp only [State.release_pos, State.release_homed, State.release_hphase, State.release_mainTrace,
    LatchesAfterPulses, LatchesAfterHoming, State.release_stepOut, State.release_dirOut]
  refine ⟨hboth.pos, hboth.homed, hboth.hphase, ⟨?_, hboth.stepOut .pan⟩, ⟨?_, hboth.stepOut .tilt⟩, ?_⟩
  · rw [hboth.dirOut]
    rfl
  · rw [hboth.dirOut]
    rfl
  · simp only [hboth.events, List.append_assoc, allHomedEvents, true_and]
    rfl

/-- Settles O46: pan's slice and line, then tilt's call, left in its re-approach. -/
theorem suspendedHomeAllPassesToTilt : Obligations.SuspendedHomeAllPassesToTilt := by
  intro s m k hr hm hends hp hfinds hon
  obtain ⟨t, hcont, hpanEffect⟩ := continueCommand_homeAllPan hends
  obtain ⟨w, hw, htiltEffect⟩ := homeAllTilt_of_goesOn true (hpanEffect.later.seekFinds (o := 0) hfinds)
    (hpanEffect.later.reapproachGoesOn hon)
  rw [hpanEffect.statusRegs_tilt, hpanEffect.cfg, hpanEffect.later.reapproachReads] at htiltEffect
  have hboth := hpanEffect.both htiltEffect
  refine ⟨_, step_of_suspended hr hm hp (hcont.trans hw) rfl, hboth.mphase.trans hm, rfl, hboth.pos, hboth.homed,
    hboth.hphase, ⟨?_, hboth.stepOut .pan⟩, ⟨?_, hboth.stepOut .tilt⟩, hboth.mailbox hr, hboth.cfg, ?_⟩
  · rw [State.setSusp_dirOut, hboth.dirOut]
    rfl
  · rw [State.setSusp_dirOut, hboth.dirOut]
    rfl
  · simp only [State.mainTrace_setSusp, hboth.events, List.append_assoc]
    rfl

end Sys2Proof.Machine
end
